-- ==== Sys2Proof/Word.lean ====
section
/-! DEFINITION. The words of the two ports (30_encoding.md R100, R101) and the symbol of the block code (41_rs_fec.md R150). -/

namespace Sys2Proof

/-- A command word or a response word: 64 bits (R100, R101). -/
abbrev Word64 := BitVec 64

/-- An 8-bit symbol of the block code (R150). -/
abbrev Sym := BitVec 8

/-- A byte of a frame (20_memory.md R74). -/
abbrev Byte := BitVec 8

end Sys2Proof
end

