-- ==== Sys2Proof/Syntax.lean ====
section
/-! DEFINITION. The 32 commands of 30_encoding.md R105, one constructor per row of spec/opcode_table.json. Each operand is a bit
vector of exactly the width its field has in the command word. -/

namespace Sys2Proof

/-- A decoded command. -/
inductive Instr where
  /-- `NOP` (40_control_commands.md R130). -/
  | nop
  /-- `CFG_WR reg, val` (R131): `reg` = A[7:0], `val` = B[31:0]. -/
  | cfgWr (reg : BitVec 8) (val : BitVec 32)
  /-- `CFG_RD reg` (R132): `reg` = A[7:0]. -/
  | cfgRd (reg : BitVec 8)
  /-- `SOFT_RESET` (R133). -/
  | softReset
  /-- `EVT_CLR mask` (R134): `mask` = B[2:1]. -/
  | evtClr (mask : BitVec 2)
  /-- `CW_CLR` (41_rs_fec.md R160). -/
  | cwClr
  /-- `CW_PUSH sym, era` (R161): `sym` = A[7:0], `era` = A[8]. -/
  | cwPush (sym : BitVec 8) (era : BitVec 1)
  /-- `CW_RD idx` (R162): `idx` = A[7:0]. -/
  | cwRd (idx : BitVec 8)
  /-- `RS_ENC k` (R163): `k` = A[7:0]. -/
  | rsEnc (k : BitVec 8)
  /-- `RS_DEC k` (R166): `k` = A[7:0]. -/
  | rsDec (k : BitVec 8)
  /-- `ILV_SPLIT k` (R172): `k` = A[7:0]. -/
  | ilvSplit (k : BitVec 8)
  /-- `ILV_MERGE k, lost` (R173): `k` = A[7:0], `lost` = B[15:0]. -/
  | ilvMerge (k : BitVec 8) (lost : BitVec 16)
  /-- `GRID_WR idx, val` (42_frame_marker.md R200): `idx` = A[15:0], `val` = B[2:0]. -/
  | gridWr (idx : BitVec 16) (val : BitVec 3)
  /-- `GRID_RD idx` (R201): `idx` = A[15:0]. -/
  | gridRd (idx : BitVec 16)
  /-- `TMPL_WR idx, resv, tval` (R202): `idx` = A[15:0], `resv` = B[3], `tval` = B[2:0]. -/
  | tmplWr (idx : BitVec 16) (resv : BitVec 1) (tval : BitVec 3)
  /-- `TMPL_RD idx` (R203): `idx` = A[15:0]. -/
  | tmplRd (idx : BitVec 16)
  /-- `FB_WR idx, val` (R204): `idx` = A[15:0], `val` = B[7:0]. -/
  | fbWr (idx : BitVec 16) (val : BitVec 8)
  /-- `FB_RD idx` (R205): `idx` = A[15:0]. -/
  | fbRd (idx : BitVec 16)
  /-- `FR_DETECT` (R213). -/
  | frDetect
  /-- `FR_PARSE` (R214). -/
  | frParse
  /-- `FR_FORMAT` (R222). -/
  | frFormat
  /-- `AB_WR idx, val` (43_audio_correlator.md R250): `idx` = A[15:0], `val` = B[15:0]. -/
  | abWr (idx : BitVec 16) (val : BitVec 16)
  /-- `AB_RD idx` (R251): `idx` = A[15:0]. -/
  | abRd (idx : BitVec 16)
  /-- `PT_WR idx, val` (R252): `idx` = A[15:0], `val` = B[15:0]. -/
  | ptWr (idx : BitVec 16) (val : BitVec 16)
  /-- `PT_RD idx` (R253): `idx` = A[15:0]. -/
  | ptRd (idx : BitVec 16)
  /-- `AU_CORR` (R257). -/
  | auCorr
  /-- `CS_OBSERVE_V id, ts` (44_channel_sync.md R280): `id` = A[23:0], `ts` = B[31:0]. -/
  | csObserveV (id : BitVec 24) (ts : BitVec 32)
  /-- `CS_OBSERVE_A id, ts` (R281): `id` = A[23:0], `ts` = B[31:0]. -/
  | csObserveA (id : BitVec 24) (ts : BitVec 32)
  /-- `CS_DRIFT sel` (R282): `sel` = A[1:0]. -/
  | csDrift (sel : BitVec 2)
  /-- `CS_ALIGN ts` (R283): `ts` = B[31:0]. -/
  | csAlign (ts : BitVec 32)
  /-- `CS_RESYNC` (R284). -/
  | csResync
  /-- `CS_HIST_RD ch, sel, idx` (R285): `ch` = A[0], `sel` = A[1], `idx` = A[15:8]. -/
  | csHistRd (ch : BitVec 1) (sel : BitVec 1) (idx : BitVec 8)
deriving DecidableEq, Repr

end Sys2Proof
end

