-- ==== Sys2Proof/Decode.lean ====
section
/-! DEFINITION. The decoder of 30_encoding.md R104 with the masks and matches of R105, total on every 64-bit word, and the
encoder of R111. -/

namespace Sys2Proof

/-- Why a word is no command; both raise `IllegalCommand` (R106, R107). -/
inductive Reject where
  /-- No row of R105 has the word's opcode (R106). Raised by `decode`; safe. -/
  | reservedOpcode
  /-- A bit the row does not list as a field is 1 (R107). Raised by `decode`; safe. -/
  | reservedBit
deriving DecidableEq, Repr

/-- `cmd.OP` (R104). -/
def opField (w : Word64) : BitVec 8 := w.extractLsb' 56 8

/-- `cmd.A` (R104). -/
def aField (w : Word64) : BitVec 24 := w.extractLsb' 32 24

/-- `cmd.B` (R104). -/
def bField (w : Word64) : BitVec 32 := w.extractLsb' 0 32

/-- Step 2 of R104: the row is accepted when the masked word equals its match. -/
def acceptRow (w mask pattern : Word64) (i : Instr) : Except Reject Instr :=
  if w &&& mask = pattern then .ok i else .error .reservedBit

/-- R104, R105: the command a word stands for, or why it is none. -/
def decode (w : Word64) : Except Reject Instr :=
  let a := aField w
  let b := bField w
  match (opField w).toNat with
  | 0x00 => acceptRow w 0xFFFFFFFFFFFFFFFF 0x0000000000000000 .nop
  | 0x01 => acceptRow w 0xFFFFFF0000000000 0x0100000000000000 (.cfgWr (a.extractLsb' 0 8) b)
  | 0x02 => acceptRow w 0xFFFFFF00FFFFFFFF 0x0200000000000000 (.cfgRd (a.extractLsb' 0 8))
  | 0x03 => acceptRow w 0xFFFFFFFFFFFFFFFF 0x0300000000000000 .softReset
  | 0x04 => acceptRow w 0xFFFFFFFFFFFFFFF9 0x0400000000000000 (.evtClr (b.extractLsb' 1 2))
  | 0x10 => acceptRow w 0xFFFFFFFFFFFFFFFF 0x1000000000000000 .cwClr
  | 0x11 => acceptRow w 0xFFFFFE00FFFFFFFF 0x1100000000000000 (.cwPush (a.extractLsb' 0 8) (a.extractLsb' 8 1))
  | 0x12 => acceptRow w 0xFFFFFF00FFFFFFFF 0x1200000000000000 (.cwRd (a.extractLsb' 0 8))
  | 0x13 => acceptRow w 0xFFFFFF00FFFFFFFF 0x1300000000000000 (.rsEnc (a.extractLsb' 0 8))
  | 0x14 => acceptRow w 0xFFFFFF00FFFFFFFF 0x1400000000000000 (.rsDec (a.extractLsb' 0 8))
  | 0x15 => acceptRow w 0xFFFFFF00FFFFFFFF 0x1500000000000000 (.ilvSplit (a.extractLsb' 0 8))
  | 0x16 => acceptRow w 0xFFFFFF00FFFF0000 0x1600000000000000 (.ilvMerge (a.extractLsb' 0 8) (b.extractLsb' 0 16))
  | 0x20 => acceptRow w 0xFFFF0000FFFFFFF8 0x2000000000000000 (.gridWr (a.extractLsb' 0 16) (b.extractLsb' 0 3))
  | 0x21 => acceptRow w 0xFFFF0000FFFFFFFF 0x2100000000000000 (.gridRd (a.extractLsb' 0 16))
  | 0x22 => acceptRow w 0xFFFF0000FFFFFFF0 0x2200000000000000
      (.tmplWr (a.extractLsb' 0 16) (b.extractLsb' 3 1) (b.extractLsb' 0 3))
  | 0x23 => acceptRow w 0xFFFF0000FFFFFFFF 0x2300000000000000 (.tmplRd (a.extractLsb' 0 16))
  | 0x24 => acceptRow w 0xFFFF0000FFFFFF00 0x2400000000000000 (.fbWr (a.extractLsb' 0 16) (b.extractLsb' 0 8))
  | 0x25 => acceptRow w 0xFFFF0000FFFFFFFF 0x2500000000000000 (.fbRd (a.extractLsb' 0 16))
  | 0x26 => acceptRow w 0xFFFFFFFFFFFFFFFF 0x2600000000000000 .frDetect
  | 0x27 => acceptRow w 0xFFFFFFFFFFFFFFFF 0x2700000000000000 .frParse
  | 0x28 => acceptRow w 0xFFFFFFFFFFFFFFFF 0x2800000000000000 .frFormat
  | 0x30 => acceptRow w 0xFFFF0000FFFF0000 0x3000000000000000 (.abWr (a.extractLsb' 0 16) (b.extractLsb' 0 16))
  | 0x31 => acceptRow w 0xFFFF0000FFFFFFFF 0x3100000000000000 (.abRd (a.extractLsb' 0 16))
  | 0x32 => acceptRow w 0xFFFF0000FFFF0000 0x3200000000000000 (.ptWr (a.extractLsb' 0 16) (b.extractLsb' 0 16))
  | 0x33 => acceptRow w 0xFFFF0000FFFFFFFF 0x3300000000000000 (.ptRd (a.extractLsb' 0 16))
  | 0x34 => acceptRow w 0xFFFFFFFFFFFFFFFF 0x3400000000000000 .auCorr
  | 0x40 => acceptRow w 0xFF00000000000000 0x4000000000000000 (.csObserveV a b)
  | 0x41 => acceptRow w 0xFF00000000000000 0x4100000000000000 (.csObserveA a b)
  | 0x42 => acceptRow w 0xFFFFFFFCFFFFFFFF 0x4200000000000000 (.csDrift (a.extractLsb' 0 2))
  | 0x43 => acceptRow w 0xFFFFFFFF00000000 0x4300000000000000 (.csAlign b)
  | 0x44 => acceptRow w 0xFFFFFFFFFFFFFFFF 0x4400000000000000 .csResync
  | 0x45 => acceptRow w 0xFFFF00FCFFFFFFFF 0x4500000000000000
      (.csHistRd (a.extractLsb' 0 1) (a.extractLsb' 1 1) (a.extractLsb' 8 8))
  | _ => .error .reservedOpcode

/-- R111: `w = (OP << 56) | (A << 32) | B`. -/
def commandWord (op : BitVec 8) (a : BitVec 24) (b : BitVec 32) : Word64 := op ++ a ++ b

/-- The word of a command, its operands at the bit positions of R105, every other operand bit 0. -/
def encode : Instr → Word64
  | .nop => commandWord 0x00 0 0
  | .cfgWr reg val => commandWord 0x01 (reg.setWidth 24) val
  | .cfgRd reg => commandWord 0x02 (reg.setWidth 24) 0
  | .softReset => commandWord 0x03 0 0
  | .evtClr mask => commandWord 0x04 0 ((0#29 ++ mask ++ 0#1 : BitVec 32))
  | .cwClr => commandWord 0x10 0 0
  | .cwPush sym era => commandWord 0x11 ((0#15 ++ era ++ sym : BitVec 24)) 0
  | .cwRd idx => commandWord 0x12 (idx.setWidth 24) 0
  | .rsEnc k => commandWord 0x13 (k.setWidth 24) 0
  | .rsDec k => commandWord 0x14 (k.setWidth 24) 0
  | .ilvSplit k => commandWord 0x15 (k.setWidth 24) 0
  | .ilvMerge k lost => commandWord 0x16 (k.setWidth 24) (lost.setWidth 32)
  | .gridWr idx val => commandWord 0x20 (idx.setWidth 24) (val.setWidth 32)
  | .gridRd idx => commandWord 0x21 (idx.setWidth 24) 0
  | .tmplWr idx resv tval => commandWord 0x22 (idx.setWidth 24) ((0#28 ++ resv ++ tval : BitVec 32))
  | .tmplRd idx => commandWord 0x23 (idx.setWidth 24) 0
  | .fbWr idx val => commandWord 0x24 (idx.setWidth 24) (val.setWidth 32)
  | .fbRd idx => commandWord 0x25 (idx.setWidth 24) 0
  | .frDetect => commandWord 0x26 0 0
  | .frParse => commandWord 0x27 0 0
  | .frFormat => commandWord 0x28 0 0
  | .abWr idx val => commandWord 0x30 (idx.setWidth 24) (val.setWidth 32)
  | .abRd idx => commandWord 0x31 (idx.setWidth 24) 0
  | .ptWr idx val => commandWord 0x32 (idx.setWidth 24) (val.setWidth 32)
  | .ptRd idx => commandWord 0x33 (idx.setWidth 24) 0
  | .auCorr => commandWord 0x34 0 0
  | .csObserveV id ts => commandWord 0x40 id ts
  | .csObserveA id ts => commandWord 0x41 id ts
  | .csDrift sel => commandWord 0x42 (sel.setWidth 24) 0
  | .csAlign ts => commandWord 0x43 0 ts
  | .csResync => commandWord 0x44 0 0
  | .csHistRd ch sel idx => commandWord 0x45 ((0#8 ++ idx ++ 0#6 ++ sel ++ ch : BitVec 24)) 0

/-- The 64-bit word of `nbits` table bits `w`, every bit above `nbits` 0. A command is one word (R100), so there is no byte or
word order to choose. -/
def tableWord (nbits w : Nat) : Word64 := BitVec.ofNat 64 (w % 2 ^ nbits)

/-- The command the decoder reads from a word given as spec/opcode_table.json numbers its bits. -/
def decodeTableWord (nbits w : Nat) : Option Instr :=
  match decode (tableWord nbits w) with
  | .ok i => some i
  | .error _ => none

end Sys2Proof
end

