-- ==== Sys2Proof/Machine/Prim.lean ====
section
/-! DEFINITION. The operators and sequences of 00_scope.md R12 and R14. -/

namespace Sys2Proof.Machine

/-- Floor division, for `b > 0` (R12). -/
def fdiv (a b : Int) : Int := a / b

/-- Ceiling division of naturals, for `b > 0` (R12). -/
def cdiv (a b : Nat) : Nat := (a + (b - 1)) / b

/-- The next odd number at or above `p` (R12). -/
def oddup (p : Nat) : Nat := if p % 2 = 1 then p else p + 1

/-- `wrap_N(v)`: the N-bit pattern of an integer (R12). -/
def wrap (n : Nat) (v : Int) : BitVec n := BitVec.ofInt n v

/-- `sdiff32(a, b)`: the signed 32-bit difference of two tick counts (R12). -/
def sdiff32 (a b : BitVec 32) : Int := (a - b).toInt

/-- `sat_sN(v)`: clamp to the signed N-bit range (R12). -/
def satS (n : Nat) (v : Int) : Int := max (-(2 : Int) ^ (n - 1)) (min v ((2 : Int) ^ (n - 1) - 1))

/-- `bits_be(v, n)`: bit n-1 first (R14). -/
def bitsBe (v n : Nat) : List Bool := (List.range n).map fun i => v.testBit (n - 1 - i)

/-- `int_be(bits)`: the first bit most significant (R14). -/
def intBe (bits : List Bool) : Nat := bits.foldl (fun acc b => 2 * acc + b.toNat) 0

/-- `bytes_be(v, n)`: most significant byte first (R14). -/
def bytesBe (v n : Nat) : List Byte := (List.range n).map fun i => BitVec.ofNat 8 (v >>> (8 * (n - 1 - i)))

/-- `bits_of_bytes(L)` (R14). -/
def bitsOfBytes (bytes : List Byte) : List Bool := bytes.flatMap fun v => bitsBe v.toNat 8

end Sys2Proof.Machine
end

