-- ==== Sys2Proof/Config.lean ====
section
/-! DEFINITION. The structural constants of the implementation (00_scope.md R9) and the free values of the manual
(20_memory.md R79). -/

namespace Sys2Proof

/-- The buffer memories of 20_memory.md R70; the two histories are lists and have no unwritten cells. -/
inductive Space where
  | cw | era | grid | tmpl | fbuf | abuf | ptmpl
deriving DecidableEq, Repr

namespace Config

/-- `N_CW_MAX`: the largest codeword length (R9). -/
def nCwMax : Nat := 255

/-- `GRID_CELLS`: cells of the grid and template memories (R9). -/
def gridCells : Nat := 65025

/-- `FB_SIZE`: bytes of the frame byte buffer (R9). -/
def fbSize : Nat := 24384

/-- `AB_SIZE`: samples of the audio buffer (R9). -/
def abSize : Nat := 4096

/-- `PT_SIZE`: samples of the preamble template (R9). -/
def ptSize : Nat := 1024

/-- `HIST_DEPTH`: entries of each history (R9). -/
def histDepth : Nat := 64

/-- Number of elements of a buffer memory (20_memory.md R70). -/
def size : Space → Nat
  | .cw => nCwMax
  | .era => nCwMax
  | .grid => gridCells
  | .tmpl => gridCells
  | .fbuf => fbSize
  | .abuf => abSize
  | .ptmpl => ptSize

/-- FREE VALUE (DESIGN CHOICE of the form, log 2): what the cell with index `index` of `space`, never written, reads as during
the command number `draw`, at the element width `w` (20_memory.md R79; 93_implementation_defined.md U1, U2). It has no body:
nothing may be assumed about it. -/
opaque unwritten (space : Space) (draw index w : Nat) : BitVec w

end Config
end Sys2Proof
end

