-- ==== Sys2Proof/Machine/State.lean ====
section
/-! DEFINITION. The state of the block (10_state.md, 20_memory.md), grouped by unit (00_scope.md R2), as plain data, and the state
after reset (10_state.md R55, 70_reset_and_hazards.md R351). -/

namespace Sys2Proof.Machine

/-- A buffer memory of elements `w` bits wide (20_memory.md R70): the cells something has written, as (index, value) pairs,
indices strictly rising. A cell not listed has never been written and holds no value (R79, log 2). An entry is one
element of the memory (log 6); for `w` = 8 it is a `Host.Cell`. -/
abbrev Mem (w : Nat) := List (Nat × BitVec w)

/-- The stages of the receive-side stage machine, the values of `PARSE_STATE` (10_state.md R41). -/
inductive ParseStage where
  | detectingFinder | extractingHeader | validatingChecksum | extractingPayload | done
deriving DecidableEq, Repr

/-- An entry of a history: an observation's id and timestamp, and whether it has taken part in a match
(10_state.md R51, 44_channel_sync.md R271). -/
structure HistEntry where
  id : BitVec 24
  ts : BitVec 32
  used : Bool
deriving DecidableEq, Repr

/-- What the host can present to the block between two commands (30_encoding.md R102, 70_reset_and_hazards.md R350). -/
inductive HostInput where
  /-- A command word on the command port (R100). -/
  | command (w : Word64)
  /-- A pulse of `rst_n` (R350; DESIGN CHOICE of the form, log 4). -/
  | hardReset
deriving DecidableEq, Repr

/-- Control and status of the block, unit CTL (10_state.md R25 to R27). -/
structure CtlState where
  /-- `STATUS.CODE` (R25). -/
  status : BitVec 8
  /-- `EVT` (R26): bit 0 `RESYNC_REQ`, bit 1 `HIST_OVF_V`, bit 2 `HIST_OVF_A`. -/
  evt : BitVec 3
  /-- `EVT_EN` (R27). -/
  evtEn : BitVec 3
deriving DecidableEq, Repr

/-- The Reed-Solomon unit, RSU (10_state.md R28 to R31, 20_memory.md R71). -/
structure RsuState where
  /-- `RS_RPCT` (R28). -/
  rsRpct : BitVec 8
  /-- `ILV_D` (R29). -/
  ilvD : BitVec 8
  /-- `RS_STAT.CW_LEN` (R30). -/
  cwLen : BitVec 9
  /-- `RS_STAT.CW_OK` (R30). -/
  cwOk : Bool
  /-- `RS_STAT.ILV` (R30). -/
  ilv : Bool
  /-- `RS_STAT.ERR_CNT` (R30). -/
  errCnt : BitVec 8
  /-- `RS_STAT.ERA_CNT` (R30). -/
  eraCnt : BitVec 8
  /-- `RS_LAST.LAST_K` (R31). -/
  lastK : BitVec 8
  /-- `RS_LAST.LAST_P` (R31). -/
  lastP : BitVec 8
  /-- Memory `CW`: codeword symbols (R70). -/
  cw : Mem 8
  /-- Memory `ERA`: erasure marks (R70). -/
  era : Mem 1
deriving DecidableEq, Repr

/-- The frame marker unit, FMU (10_state.md R32 to R41, 20_memory.md R72 to R74). -/
structure FmuState where
  /-- `GRID_N` (R32). -/
  gridN : BitVec 8
  /-- `PAL_BITS` (R33). -/
  palBits : BitVec 2
  /-- `FIND_TOL` (R34). -/
  findTol : BitVec 16
  /-- `HDR_FRAMEID` (R35). -/
  hdrFrameId : BitVec 24
  /-- `HDR_TOTAL` (R35). -/
  hdrTotal : BitVec 16
  /-- `HDR_PAYLEN` (R35). -/
  hdrPaylen : BitVec 16
  /-- `HDR_CKSUM` (R36). -/
  hdrCksum : BitVec 16
  /-- `FR_PARLEN` (R37). -/
  frParlen : BitVec 16
  /-- `FB_LEN` (R38). -/
  fbLen : BitVec 16
  /-- `FR_SCORE` (R39). -/
  frScore : BitVec 16
  /-- `FR_RCNT` (R39). -/
  frRcnt : BitVec 16
  /-- `PARSE_STATE` (R41). -/
  parseState : ParseStage
  /-- Memory `GRID`: palette indices (R70). -/
  grid : Mem 3
  /-- Memory `TMPL`: elements `{resv, tval[2:0]}` (R70). -/
  tmpl : Mem 4
  /-- Memory `FBUF`: frame bytes (R70). -/
  fbuf : Mem 8
deriving DecidableEq, Repr

/-- The audio preamble correlator, APC (10_state.md R42 to R44, 20_memory.md R75). -/
structure ApcState where
  /-- `AB_LEN` (R42). -/
  abLen : BitVec 13
  /-- `PT_LEN` (R42). -/
  ptLen : BitVec 11
  /-- `AU_THRESH_LO` (R43). -/
  auThreshLo : BitVec 32
  /-- `AU_THRESH_HI` (R43). -/
  auThreshHi : BitVec 16
  /-- `AU_PEAK_LO` (R44). -/
  auPeakLo : BitVec 32
  /-- `AU_PEAK_HI` (R44). -/
  auPeakHi : BitVec 16
  /-- `AU_LAG` (R44). -/
  auLag : BitVec 12
  /-- Memory `ABUF`: audio samples, two's complement (R75). -/
  abuf : Mem 16
  /-- Memory `PTMPL`: preamble template, two's complement (R75). -/
  ptmpl : Mem 16
deriving DecidableEq, Repr

/-- The channel synchroniser, CSU (10_state.md R45 to R51). -/
structure CsuState where
  /-- `HIST_WIN` (R45). -/
  histWin : BitVec 31
  /-- `RESYNC_N` (R46). -/
  resyncN : BitVec 8
  /-- `OFFSET`, the two's-complement pattern of a signed 48-bit number with 16 fraction bits (R47). -/
  offset : BitVec 48
  /-- `RATE`, the two's-complement pattern of a signed 32-bit number with 32 fraction bits (R48). -/
  rate : BitVec 32
  /-- `NOMATCH` (R49). -/
  noMatch : BitVec 8
  /-- `M_PREV`, the two's-complement pattern of a signed 32-bit number (R50). -/
  mPrev : BitVec 32
  /-- `T_PREV` (R50). -/
  tPrev : BitVec 32
  /-- `HAVE_PREV` (R50). -/
  havePrev : Bool
  /-- `VH`, oldest arrival first (R51). -/
  vh : List HistEntry
  /-- `AH`, oldest arrival first (R51). -/
  ah : List HistEntry
deriving DecidableEq, Repr

/-- The whole machine. -/
structure State where
  /-- Control and status. -/
  ctl : CtlState
  /-- Reed-Solomon unit. -/
  rsu : RsuState
  /-- Frame marker unit. -/
  fmu : FmuState
  /-- Audio preamble correlator. -/
  apc : ApcState
  /-- Channel synchroniser. -/
  csu : CsuState
  /-- What the host has presented and the block has not taken yet, first to be taken first (30_encoding.md R103; DESIGN
  CHOICE, log 1). -/
  inputs : List HostInput
  /-- The response word on the response port; none after reset (R101, R350; DESIGN CHOICE of the form, log 1). -/
  rsp : Option Word64
  /-- The MODEL's own counter: commands completed, the index under which unwritten cells are drawn (DESIGN CHOICE,
  log 2). -/
  draws : Nat
deriving DecidableEq, Repr

/-- The block never stops with a fault: every command word, legal or not, has a defined response
(93_implementation_defined.md section 1). No constructor, so nobody raises one. -/
inductive Fault where
deriving DecidableEq, Repr

/-- Why a step has no meaning. -/
inductive Refusal where
  /-- An arm of `exec` whose command has no meaning yet. No arm raises it now; safe. -/
  | notModelled (mnemonic : String)
deriving DecidableEq, Repr

/-- The outcome type of a step. -/
abbrev Result := Host.Outcome State Fault Refusal

/-- CTL after reset (R351). -/
def CtlState.reset : CtlState := { status := 0, evt := 0, evtEn := 0 }

/-- RSU after reset (R351): the cells of `CW` and `ERA` unwritten (R79). -/
def RsuState.reset : RsuState :=
  { rsRpct := 35, ilvD := 5, cwLen := 0, cwOk := false, ilv := false, errCnt := 0, eraCnt := 0, lastK := 0, lastP := 0,
    cw := [], era := [] }

/-- FMU after reset (R351): the cells of `GRID`, `TMPL` and `FBUF` unwritten (R79). -/
def FmuState.reset : FmuState :=
  { gridN := 100, palBits := 2, findTol := 0, hdrFrameId := 0, hdrTotal := 0, hdrPaylen := 0, hdrCksum := 0, frParlen := 0,
    fbLen := 0, frScore := 0, frRcnt := 0, parseState := .detectingFinder, grid := [], tmpl := [], fbuf := [] }

/-- APC after reset (R351): the cells of `ABUF` and `PTMPL` unwritten (R79). -/
def ApcState.reset : ApcState :=
  { abLen := 0, ptLen := 0, auThreshLo := 0xFFFFFFFF, auThreshHi := 0x7FFF, auPeakLo := 0, auPeakHi := 0, auLag := 0,
    abuf := [], ptmpl := [] }

/-- CSU after reset (R351). -/
def CsuState.reset : CsuState :=
  { histWin := 2000000, resyncN := 5, offset := 0, rate := 0, noMatch := 0, mPrev := 0, tPrev := 0, havePrev := false,
    vh := [], ah := [] }

/-- The machine right after reset (R55, R351), nothing presented (log 1), the model's counter at 0 (log 2). -/
def State.reset : State :=
  { ctl := .reset, rsu := .reset, fmu := .reset, apc := .reset, csu := .reset, inputs := [], rsp := none, draws := 0 }

end Sys2Proof.Machine
end

