-- ==== Sys2Proof/Machine/Ops.lean ====
section
/-! DEFINITION. The named operations over memories, ports and registers: reading and writing one element (00_scope.md R13,
20_memory.md R70), ending a command (`respond`, R13), taking an exception (`raise`, 60_exceptions.md R312) and its counterpart
`acknowledgeResync` (R314), the two resets (40_control_commands.md R133, 70_reset_and_hazards.md R350), and fetching the next
input (30_encoding.md R103). -/

namespace Sys2Proof.Machine

/-! ### Buffer memories -/

/-- What a memory holds at an index: nothing where no command has written (20_memory.md R79). -/
def Mem.get? {w : Nat} : Mem w → Nat → Option (BitVec w)
  | [], _ => none
  | (b, x) :: m, i => if i = b then some x else Mem.get? m i

/-- `MemWrite`: one element, keeping the indices strictly rising (00_scope.md R13). -/
def Mem.write {w : Nat} : Mem w → Nat → BitVec w → Mem w
  | [], i, v => [(i, v)]
  | (b, x) :: m, i, v =>
    if i < b then (i, v) :: (b, x) :: m
    else if i = b then (i, v) :: m
    else (b, x) :: Mem.write m i v

/-- `MemWrite` of consecutive elements from index `base`. -/
def Mem.writeList {w : Nat} (m : Mem w) (base : Nat) : List (BitVec w) → Mem w
  | [] => m
  | v :: vs => Mem.writeList (Mem.write m base v) (base + 1) vs

/-- The canonical form: indices strictly rising. No entry equals what an unlisted cell reads as, since an unlisted cell
holds no value. -/
def Mem.wf {w : Nat} : Mem w → Bool
  | [] => true
  | [_] => true
  | (a, _) :: (b, x) :: m => decide (a < b) && Mem.wf ((b, x) :: m)

/-- Every listed index names an element of a memory of `n` elements (20_memory.md R70). -/
def Mem.within {w : Nat} (m : Mem w) (n : Nat) : Bool := m.all fun c => decide (c.1 < n)

/-- `MemRead` during the command numbered `s.draws`: the element something has written, or the free value of that cell
during that command (20_memory.md R79, log 2). -/
def readCell (space : Space) (s : State) {w : Nat} (m : Mem w) (i : Nat) : BitVec w :=
  (Mem.get? m i).getD (Config.unwritten space s.draws i w)

/-- `MemRead(CW, i)`. -/
def readCw (s : State) (i : Nat) : Sym := readCell .cw s s.rsu.cw i
/-- `MemRead(ERA, i)`. -/
def readEra (s : State) (i : Nat) : BitVec 1 := readCell .era s s.rsu.era i
/-- `MemRead(GRID, i)`. -/
def readGrid (s : State) (i : Nat) : BitVec 3 := readCell .grid s s.fmu.grid i
/-- `MemRead(TMPL, i)`, the 4-bit element `{resv, tval}`. -/
def readTmpl (s : State) (i : Nat) : BitVec 4 := readCell .tmpl s s.fmu.tmpl i
/-- `MemRead(FBUF, i)`. -/
def readFbuf (s : State) (i : Nat) : Byte := readCell .fbuf s s.fmu.fbuf i
/-- `MemRead(ABUF, i)`, the 16-bit pattern of the sample. -/
def readAbuf (s : State) (i : Nat) : BitVec 16 := readCell .abuf s s.apc.abuf i
/-- `MemRead(PTMPL, i)`, the 16-bit pattern of the sample. -/
def readPtmpl (s : State) (i : Nat) : BitVec 16 := readCell .ptmpl s s.apc.ptmpl i

/-! ### Ending a command -/

/-- The outcome codes (60_exceptions.md R310). -/
inductive OutcomeCode where
  | ok | malformedBlock | uncorrectableErrors | noFinderPattern | headerChecksumMismatch | preambleNotFound
  | crcMismatch | resyncRequired | sessionAborted | illegalCommand | addressError | configError
deriving DecidableEq, Repr

/-- The 8-bit number of an outcome code (R310). -/
def codeOf : OutcomeCode → BitVec 8
  | .ok => 0x00
  | .malformedBlock => 0x01
  | .uncorrectableErrors => 0x02
  | .noFinderPattern => 0x03
  | .headerChecksumMismatch => 0x04
  | .preambleNotFound => 0x05
  | .crcMismatch => 0x06
  | .resyncRequired => 0x07
  | .sessionAborted => 0x08
  | .illegalCommand => 0x10
  | .addressError => 0x11
  | .configError => 0x12

/-- The response word `{ST, RA, RB}` (30_encoding.md R101). -/
def responseWord (st : OutcomeCode) (ra : BitVec 24) (rb : BitVec 32) : Word64 := codeOf st ++ ra ++ rb

/-- `respond(status, ra, rb)`: `STATUS.CODE` takes the code and the response word is emitted (00_scope.md R13). The model's
counter advances, so that the next command draws unwritten cells afresh (log 2). -/
def respond (st : OutcomeCode) (ra : BitVec 24) (rb : BitVec 32) (s : State) : State :=
  { s with
    ctl := { s.ctl with status := codeOf st }
    rsp := some (responseWord st ra rb)
    draws := s.draws + 1 }

/-- TAKING AN EXCEPTION: `raise <Outcome>(ra, rb)` (00_scope.md R13, 60_exceptions.md R312). The code goes to `STATUS.CODE` and
to the response word; nothing is saved, control goes nowhere, no mask or mode changes. -/
def raise (st : OutcomeCode) (ra : BitVec 24) (rb : BitVec 32) (s : State) : State := respond st ra rb s

/-- The counterpart of a return from an exception (60_exceptions.md R314): the host's recovery from `ResyncRequired` is done
(44_channel_sync.md R284). `EVT.HIST_OVF_V`, `EVT.HIST_OVF_A`, `OFFSET`, `RATE`, `M_PREV`, `T_PREV` keep their values. -/
def acknowledgeResync (s : State) : State :=
  { s with
    ctl := { s.ctl with evt := s.ctl.evt &&& 0b110#3 }
    csu := { s.csu with vh := [], ah := [], noMatch := 0, havePrev := false } }

/-! ### Resets -/

/-- `SOFT_RESET`'s effect (40_control_commands.md R133): every register and list at its reset value; the cells of the
seven buffer memories stay. -/
def softResetState (s : State) : State :=
  { s with
    ctl := CtlState.reset
    rsu := { RsuState.reset with cw := s.rsu.cw, era := s.rsu.era }
    fmu := { FmuState.reset with grid := s.fmu.grid, tmpl := s.fmu.tmpl, fbuf := s.fmu.fbuf }
    apc := { ApcState.reset with abuf := s.apc.abuf, ptmpl := s.apc.ptmpl }
    csu := CsuState.reset }

/-- A pulse of `rst_n` between two commands (70_reset_and_hazards.md R350, R351; 93_implementation_defined.md U6): the state
after reset, every buffer cell unwritten again, no response standing. What the host has still to present stays with it,
and the model's counter goes on, so that the unwritten cells are drawn afresh (DESIGN CHOICE, log 4). -/
def hardReset (s : State) : State :=
  { State.reset with inputs := s.inputs, draws := s.draws + 1 }

/-! ### The command port -/

/-- The next input the block takes, and the state with it taken (30_encoding.md R103); none while nothing is presented. -/
def fetch (s : State) : Option (HostInput × State) :=
  match s.inputs with
  | [] => none
  | x :: rest => some (x, { s with inputs := rest })

/-- The host presents a command word as the very next input. -/
def presentNext (s : State) (w : Word64) : State := { s with inputs := .command w :: s.inputs }

end Sys2Proof.Machine
end

