-- ==== Sys2Proof/Machine/Flags.lean ====
section
/-! DEFINITION. Every flag of the block (10_state.md R52): the event bits of `EVT` (R26), the interrupt line computed from them
(60_exceptions.md R320), `RS_STAT.CW_OK` and `RS_STAT.ILV` (R30). `HAVE_PREV` and the `used` bits are computed in Csu.lean. -/

namespace Sys2Proof.Machine

/-- `EVT.RESYNC_REQ` (R26). -/
def resyncReq (s : State) : Bool := s.ctl.evt.getLsbD 0

/-- `EVT.HIST_OVF_V` (R26). -/
def histOvfV (s : State) : Bool := s.ctl.evt.getLsbD 1

/-- `EVT.HIST_OVF_A` (R26). -/
def histOvfA (s : State) : Bool := s.ctl.evt.getLsbD 2

/-- Set the event bits of `bits`; an event already set stays set (60_exceptions.md R319). -/
def setEvents (bits : BitVec 3) (s : State) : State := { s with ctl := { s.ctl with evt := s.ctl.evt ||| bits } }

/-- Clear the overflow events selected by `mask` (40_control_commands.md R134): bit 0 of `EVT` is out of its reach. -/
def clearEvents (mask : BitVec 2) (s : State) : State :=
  { s with ctl := { s.ctl with evt := s.ctl.evt &&& ~~~(mask ++ 0#1 : BitVec 3) } }

/-- The interrupt line (60_exceptions.md R320): a level, a function of the state (R321). -/
def irq (s : State) : Bool := decide (s.ctl.evt &&& s.ctl.evtEn ≠ 0)

/-- The block in the codeword buffer is discarded: `CW_LEN <- 0`, `CW_OK <- 0` (60_exceptions.md R313 (b)). -/
def discardBlock (s : State) : State := { s with rsu := { s.rsu with cwLen := 0, cwOk := false } }

end Sys2Proof.Machine
end

