-- ==== Sys2Proof/Machine/Operands.lean ====
section
/-! DEFINITION. Every operand form of the block: a register index of `CFG_WR` and `CFG_RD` (10_state.md R22), an element index of
a buffer memory (30_encoding.md R109 (d)), a sample (R109 (a)), a timestamp (R109 (b)). Immediate fields are taken as they
stand (R109). -/

namespace Sys2Proof.Machine

/-- The control and status registers (10_state.md R22). -/
inductive Reg where
  | id | status | evt | evtEn
  | rsRpct | ilvD | rsStat | rsLast
  | gridN | palBits | findTol | hdrFrameId | hdrTotal | hdrPaylen | hdrCksum | frParlen | fbLen | frScore | frRcnt
  | parseState
  | abLen | ptLen | auThreshLo | auThreshHi | auPeakLo | auPeakHi | auLag
  | histWin | resyncN | csOffsetLo | csOffsetHi | csRate | csNoMatch | csFill | csMprev | csTprev
deriving DecidableEq, Repr

/-- The register an index names, if any (R22). -/
def regOfIndex (index : BitVec 8) : Option Reg :=
  match index.toNat with
  | 0x00 => some .id
  | 0x01 => some .status
  | 0x02 => some .evt
  | 0x03 => some .evtEn
  | 0x10 => some .rsRpct
  | 0x11 => some .ilvD
  | 0x12 => some .rsStat
  | 0x13 => some .rsLast
  | 0x20 => some .gridN
  | 0x21 => some .palBits
  | 0x22 => some .findTol
  | 0x23 => some .hdrFrameId
  | 0x24 => some .hdrTotal
  | 0x25 => some .hdrPaylen
  | 0x26 => some .hdrCksum
  | 0x27 => some .frParlen
  | 0x28 => some .fbLen
  | 0x29 => some .frScore
  | 0x2A => some .frRcnt
  | 0x2B => some .parseState
  | 0x30 => some .abLen
  | 0x31 => some .ptLen
  | 0x32 => some .auThreshLo
  | 0x33 => some .auThreshHi
  | 0x34 => some .auPeakLo
  | 0x35 => some .auPeakHi
  | 0x36 => some .auLag
  | 0x40 => some .histWin
  | 0x41 => some .resyncN
  | 0x42 => some .csOffsetLo
  | 0x43 => some .csOffsetHi
  | 0x44 => some .csRate
  | 0x45 => some .csNoMatch
  | 0x46 => some .csFill
  | 0x47 => some .csMprev
  | 0x48 => some .csTprev
  | _ => none

/-- The "legal values" column of R22 for a register of access `RW`; none for one of access `RO`. -/
def legalRange : Reg → Option (Nat × Nat)
  | .evtEn => some (0, 7)
  | .rsRpct => some (25, 50)
  | .ilvD => some (2, 16)
  | .gridN => some (1, 255)
  | .palBits => some (1, 3)
  | .findTol => some (0, 65535)
  | .hdrFrameId => some (0, 2 ^ 24 - 1)
  | .hdrTotal => some (0, 65535)
  | .hdrPaylen => some (0, 65535)
  | .frParlen => some (0, 65535)
  | .abLen => some (0, 4096)
  | .ptLen => some (0, 1024)
  | .auThreshLo => some (0, 2 ^ 32 - 1)
  | .auThreshHi => some (0, 65535)
  | .histWin => some (0, 2 ^ 31 - 1)
  | .resyncN => some (0, 255)
  | .id | .status | .evt | .rsStat | .rsLast | .hdrCksum | .fbLen | .frScore | .frRcnt | .parseState | .auPeakLo
  | .auPeakHi | .auLag | .csOffsetLo | .csOffsetHi | .csRate | .csNoMatch | .csFill | .csMprev | .csTprev => none

/-- The codes of `PARSE_STATE` (10_state.md R41). -/
def stageCode : ParseStage → BitVec 3
  | .detectingFinder => 0
  | .extractingHeader => 1
  | .validatingChecksum => 2
  | .extractingPayload => 3
  | .done => 4

/-- `RS_STAT` (10_state.md R30). -/
def rsStatWord (r : RsuState) : BitVec 32 :=
  r.eraCnt ++ r.errCnt ++ 0#5 ++ BitVec.ofBool r.ilv ++ BitVec.ofBool r.cwOk ++ r.cwLen

/-- `CS_FILL` (10_state.md R51). -/
def csFillWord (c : CsuState) : BitVec 32 :=
  0#15 ++ BitVec.ofBool c.havePrev ++ 0#1 ++ BitVec.ofNat 7 c.ah.length ++ 0#1 ++ BitVec.ofNat 7 c.vh.length

/-- `CSR[reg]` as a 32-bit value, bits above the register's width 0 (R22). `ID` is hard-wired (R24); view registers are
computed from the state elements (40_control_commands.md R132). -/
def readReg (s : State) : Reg → BitVec 32
  | .id => 0x48445407
  | .status => s.ctl.status.setWidth 32
  | .evt => s.ctl.evt.setWidth 32
  | .evtEn => s.ctl.evtEn.setWidth 32
  | .rsRpct => s.rsu.rsRpct.setWidth 32
  | .ilvD => s.rsu.ilvD.setWidth 32
  | .rsStat => rsStatWord s.rsu
  | .rsLast => (s.rsu.lastP ++ s.rsu.lastK).setWidth 32
  | .gridN => s.fmu.gridN.setWidth 32
  | .palBits => s.fmu.palBits.setWidth 32
  | .findTol => s.fmu.findTol.setWidth 32
  | .hdrFrameId => s.fmu.hdrFrameId.setWidth 32
  | .hdrTotal => s.fmu.hdrTotal.setWidth 32
  | .hdrPaylen => s.fmu.hdrPaylen.setWidth 32
  | .hdrCksum => s.fmu.hdrCksum.setWidth 32
  | .frParlen => s.fmu.frParlen.setWidth 32
  | .fbLen => s.fmu.fbLen.setWidth 32
  | .frScore => s.fmu.frScore.setWidth 32
  | .frRcnt => s.fmu.frRcnt.setWidth 32
  | .parseState => (stageCode s.fmu.parseState).setWidth 32
  | .abLen => s.apc.abLen.setWidth 32
  | .ptLen => s.apc.ptLen.setWidth 32
  | .auThreshLo => s.apc.auThreshLo
  | .auThreshHi => s.apc.auThreshHi.setWidth 32
  | .auPeakLo => s.apc.auPeakLo
  | .auPeakHi => s.apc.auPeakHi.setWidth 32
  | .auLag => s.apc.auLag.setWidth 32
  | .histWin => s.csu.histWin.setWidth 32
  | .resyncN => s.csu.resyncN.setWidth 32
  | .csOffsetLo => s.csu.offset.extractLsb' 0 32
  | .csOffsetHi => (s.csu.offset.extractLsb' 32 16).setWidth 32
  | .csRate => s.csu.rate
  | .csNoMatch => s.csu.noMatch.setWidth 32
  | .csFill => csFillWord s.csu
  | .csMprev => s.csu.mPrev
  | .csTprev => s.csu.tPrev

/-- `CSR[reg] <- val` for a register of access `RW` and a legal value (40_control_commands.md R131); a register of access
`RO` is never written this way. -/
def writeReg (s : State) (r : Reg) (v : BitVec 32) : State :=
  match r with
  | .evtEn => { s with ctl := { s.ctl with evtEn := v.setWidth 3 } }
  | .rsRpct => { s with rsu := { s.rsu with rsRpct := v.setWidth 8 } }
  | .ilvD => { s with rsu := { s.rsu with ilvD := v.setWidth 8 } }
  | .gridN => { s with fmu := { s.fmu with gridN := v.setWidth 8 } }
  | .palBits => { s with fmu := { s.fmu with palBits := v.setWidth 2 } }
  | .findTol => { s with fmu := { s.fmu with findTol := v.setWidth 16 } }
  | .hdrFrameId => { s with fmu := { s.fmu with hdrFrameId := v.setWidth 24 } }
  | .hdrTotal => { s with fmu := { s.fmu with hdrTotal := v.setWidth 16 } }
  | .hdrPaylen => { s with fmu := { s.fmu with hdrPaylen := v.setWidth 16 } }
  | .frParlen => { s with fmu := { s.fmu with frParlen := v.setWidth 16 } }
  | .abLen => { s with apc := { s.apc with abLen := v.setWidth 13 } }
  | .ptLen => { s with apc := { s.apc with ptLen := v.setWidth 11 } }
  | .auThreshLo => { s with apc := { s.apc with auThreshLo := v } }
  | .auThreshHi => { s with apc := { s.apc with auThreshHi := v.setWidth 16 } }
  | .histWin => { s with csu := { s.csu with histWin := v.setWidth 31 } }
  | .resyncN => { s with csu := { s.csu with resyncN := v.setWidth 8 } }
  | .id | .status | .evt | .rsStat | .rsLast | .hdrCksum | .fbLen | .frScore | .frRcnt | .parseState | .auPeakLo
  | .auPeakHi | .auLag | .csOffsetLo | .csOffsetHi | .csRate | .csNoMatch | .csFill | .csMprev | .csTprev => s

/-- `N*N`: the bound of an index into `GRID` and `TMPL` (20_memory.md R72). -/
def gridBound (s : State) : Nat := s.fmu.gridN.toNat * s.fmu.gridN.toNat

/-- `2^PAL_BITS`: the bound of a palette index (10_state.md R33). -/
def paletteBound (s : State) : Nat := 2 ^ s.fmu.palBits.toNat

/-- The bound of an index `CW_RD` may name (41_rs_fec.md R162). -/
def cwBound (s : State) : Nat := min s.rsu.cwLen.toNat Config.nCwMax

/-- A sample as an integer (30_encoding.md R109 (a)). -/
def sampleOf (v : BitVec 16) : Int := v.toInt

/-- `{resv, tval}` (42_frame_marker.md R202). -/
def tmplElement (resv : BitVec 1) (tval : BitVec 3) : BitVec 4 := resv ++ tval

/-- The field `resv` of a template element (20_memory.md R70). -/
def tmplResv (e : BitVec 4) : Bool := e.getLsbD 3

/-- The field `tval` of a template element (20_memory.md R70). -/
def tmplTval (e : BitVec 4) : BitVec 3 := e.extractLsb' 0 3

end Sys2Proof.Machine
end

