-- ==== Sys2Proof/Machine/Apc.lean ====
section
/-! DEFINITION. The meanings of the audio preamble correlator's commands (43_audio_correlator.md). -/

namespace Sys2Proof.Machine

/-- `AB_WR idx, val` (R250). -/
def execAbWr (idx : BitVec 16) (val : BitVec 16) (s : State) : Result :=
  .next <|
    if Config.abSize ≤ idx.toNat then raise .addressError 0 0 s
    else respond .ok 0 0 { s with apc := { s.apc with abuf := Mem.write s.apc.abuf idx.toNat val } }

/-- `AB_RD idx` (R251): the sample's pattern in `RB[15:0]`, not sign-extended. -/
def execAbRd (idx : BitVec 16) (s : State) : Result :=
  .next <|
    if Config.abSize ≤ idx.toNat then raise .addressError 0 0 s
    else respond .ok 0 ((readAbuf s idx.toNat).setWidth 32) s

/-- `PT_WR idx, val` (R252). -/
def execPtWr (idx : BitVec 16) (val : BitVec 16) (s : State) : Result :=
  .next <|
    if Config.ptSize ≤ idx.toNat then raise .addressError 0 0 s
    else respond .ok 0 0 { s with apc := { s.apc with ptmpl := Mem.write s.apc.ptmpl idx.toNat val } }

/-- `PT_RD idx` (R253): the sample's pattern in `RB[15:0]`, not sign-extended. -/
def execPtRd (idx : BitVec 16) (s : State) : Result :=
  .next <|
    if Config.ptSize ≤ idx.toNat then raise .addressError 0 0 s
    else respond .ok 0 ((readPtmpl s idx.toNat).setWidth 32) s

/-- `C(l)`: the exact correlation at lag `l` over `t` template samples (R254). -/
def correlation (s : State) (t l : Nat) : Int :=
  ((List.range t).map fun i => sampleOf (readAbuf s (l + i)) * sampleOf (readPtmpl s i)).sum

/-- The largest value of `c` over the lags `0 .. count` and the smallest lag that has it (R255). -/
def peakOf (c : Nat → Int) : Nat → Int × Nat
  | 0 => (c 0, 0)
  | count + 1 =>
    let best := peakOf c count
    let v := c (count + 1)
    if best.1 < v then (v, count + 1) else best

/-- `AU_THRESH = sext_48({AU_THRESH_HI, AU_THRESH_LO})` (10_state.md R43). -/
def threshold (s : State) : Int := (s.apc.auThreshHi ++ s.apc.auThreshLo).toInt

/-- `AU_CORR` (R257). -/
def execAuCorr (s : State) : Result :=
  .next <|
    let t := s.apc.ptLen.toNat
    let a := s.apc.abLen.toNat
    if t = 0 then raise .configError 0 0 s
    else if a < t then raise .preambleNotFound 0 0 s
    else
      let best := peakOf (correlation s t) (a - t)
      let pattern := wrap 48 best.1
      let u := { s with apc := { s.apc with
        auPeakLo := pattern.extractLsb' 0 32
        auPeakHi := pattern.extractLsb' 32 16
        auLag := BitVec.ofNat 12 best.2 } }
      let ra := BitVec.ofNat 24 best.2
      let rb := wrap 32 best.1
      if best.1 < threshold s then raise .preambleNotFound ra rb u else respond .ok ra rb u

end Sys2Proof.Machine
end

