-- ==== Sys2Proof/Machine/Control.lean ====
section
/-! DEFINITION. The meanings of the control commands (40_control_commands.md). -/

namespace Sys2Proof.Machine

/-- `NOP` (R130). -/
def execNop (s : State) : Result := .next (respond .ok 0 0 s)

/-- `CFG_WR reg, val` (R131), the checks in the order of 60_exceptions.md R315. -/
def execCfgWr (reg : BitVec 8) (val : BitVec 32) (s : State) : Result :=
  .next <|
    match regOfIndex reg with
    | none => raise .addressError 0 0 s
    | some r =>
      match legalRange r with
      | none => raise .addressError 0 0 s
      | some (lo, hi) =>
        if lo ≤ val.toNat ∧ val.toNat ≤ hi then respond .ok 0 0 (writeReg s r val)
        else raise .configError 0 0 s

/-- `CFG_RD reg` (R132): the value before this command's own `STATUS` update. -/
def execCfgRd (reg : BitVec 8) (s : State) : Result :=
  .next <|
    match regOfIndex reg with
    | none => raise .addressError 0 0 s
    | some r => respond .ok 0 (readReg s r) s

/-- `SOFT_RESET` (R133). -/
def execSoftReset (s : State) : Result := .next (respond .ok 0 0 (softResetState s))

/-- `EVT_CLR mask` (R134): `RB` is `EVT` after clearing. -/
def execEvtClr (mask : BitVec 2) (s : State) : Result :=
  let t := clearEvents mask s
  .next (respond .ok 0 (t.ctl.evt.setWidth 32) t)

end Sys2Proof.Machine
end

