-- ==== Sys2Proof/Machine/Csu.lean ====
section
/-! DEFINITION. The meanings of the channel synchroniser's commands (44_channel_sync.md). -/

namespace Sys2Proof.Machine

/-- The survivors of `evict(ts)` in one history (R272): an entry exactly `HIST_WIN` old stays. -/
def evictList (win : BitVec 31) (ts : BitVec 32) (h : List HistEntry) : List HistEntry :=
  h.filter fun e => !decide ((win.toNat : Int) < sdiff32 ts e.ts)

/-- `evict(ts)` on both histories (R272). -/
def evict (ts : BitVec 32) (s : State) : State :=
  { s with csu := { s.csu with
      vh := evictList s.csu.histWin ts s.csu.vh
      ah := evictList s.csu.histWin ts s.csu.ah } }

/-- Some entry of the history has this id (R274). -/
def hasId (id : BitVec 24) (h : List HistEntry) : Bool := h.any fun e => e.id == id

/-- An entry has this id and has taken part in no match (R275). -/
def isCandidate (id : BitVec 24) (e : HistEntry) : Bool := e.id == id && !e.used

/-- The first entry with this id and `used` = 0 takes `used` = 1 (R275; at most one exists by R274; DEDUCED, log 7). -/
def markUsed (id : BitVec 24) : List HistEntry → List HistEntry
  | [] => []
  | e :: h => if isCandidate id e then { e with used := true } :: h else e :: markUsed id h

/-- The offset update (R277): `OFFSET <- fdiv(9 * OFFSET + (m << 16), 10)`. -/
def offsetUpdate (offset : BitVec 48) (m : Int) : BitVec 48 := wrap 48 (fdiv (9 * offset.toInt + m * 2 ^ 16) 10)

/-- The slope `rho` between two measurements `dt` ticks apart (R278). -/
def slope (m mPrev dt : Int) : Int := satS 32 (fdiv ((m - mPrev) * 2 ^ 32) dt)

/-- The rate update (R278): none without a previous pair, or with a visual timestamp not later than its. -/
def rateUpdate (c : CsuState) (m : Int) (vts : BitVec 32) : BitVec 32 :=
  let dt := sdiff32 vts c.tPrev
  if c.havePrev ∧ 0 < dt then wrap 32 (fdiv (9 * c.rate.toInt + slope m c.mPrev.toInt dt) 10) else c.rate

/-- What a match with measurement `m` and visual timestamp `vts` does to the estimate and to `NOMATCH` (R277 to R279). -/
def estimate (m : Int) (vts : BitVec 32) (s : State) : State :=
  { s with csu := { s.csu with
      offset := offsetUpdate s.csu.offset m
      rate := rateUpdate s.csu m vts
      mPrev := wrap 32 m
      tPrev := vts
      havePrev := true
      noMatch := 0 } }

/-- `RA` of an observation: bit 0 MATCHED, bit 1 DUP, bit 2 DROPPED (R280). -/
def observeFlags (dropped dup matched : Bool) : BitVec 24 :=
  0#21 ++ BitVec.ofBool dropped ++ BitVec.ofBool dup ++ BitVec.ofBool matched

/-- The history is full (R276). -/
def isFull (h : List HistEntry) : Bool := h.length == Config.histDepth

/-- Room for one visual entry: the oldest goes where the history is full, and `EVT.HIST_OVF_V` is set (R276). -/
def makeRoomV (s : State) : State :=
  if isFull s.csu.vh then setEvents 0b010 { s with csu := { s.csu with vh := s.csu.vh.tail } } else s

/-- Room for one audio entry: the oldest goes where the history is full, and `EVT.HIST_OVF_A` is set (R276). -/
def makeRoomA (s : State) : State :=
  if isFull s.csu.ah then setEvents 0b100 { s with csu := { s.csu with ah := s.csu.ah.tail } } else s

/-- `min(255, NOMATCH + 1)` (R279). -/
def bumpNoMatch (n : BitVec 8) : BitVec 8 := BitVec.ofNat 8 (min 255 (n.toNat + 1))

/-- `CS_OBSERVE_V id, ts` (R280). -/
def execCsObserveV (id : BitVec 24) (ts : BitVec 32) (s : State) : Result :=
  .next <|
    if resyncReq s then raise .resyncRequired 0 0 s
    else
      let s1 := evict ts s
      if hasId id s1.csu.vh then respond .ok (observeFlags false true false) 0 s1
      else
        let dropped := isFull s1.csu.vh
        let s2 := makeRoomV s1
        match s2.csu.ah.find? (isCandidate id) with
        | some a =>
          let m := sdiff32 a.ts ts
          let s3 := { s2 with csu := { s2.csu with
            vh := s2.csu.vh ++ [{ id := id, ts := ts, used := true }]
            ah := markUsed id s2.csu.ah } }
          respond .ok (observeFlags dropped false true) (wrap 32 m) (estimate m ts s3)
        | none =>
          let n := bumpNoMatch s2.csu.noMatch
          let s3 := { s2 with csu := { s2.csu with
            vh := s2.csu.vh ++ [{ id := id, ts := ts, used := false }]
            noMatch := n } }
          if s2.csu.resyncN ≠ 0 ∧ s2.csu.resyncN.toNat ≤ n.toNat then
            raise .resyncRequired (observeFlags dropped false false) (n.setWidth 32) (setEvents 0b001 s3)
          else respond .ok (observeFlags dropped false false) 0 s3

/-- `CS_OBSERVE_A id, ts` (R281): never raises the flag itself and leaves `NOMATCH` where it finds no match. -/
def execCsObserveA (id : BitVec 24) (ts : BitVec 32) (s : State) : Result :=
  .next <|
    if resyncReq s then raise .resyncRequired 0 0 s
    else
      let s1 := evict ts s
      if hasId id s1.csu.ah then respond .ok (observeFlags false true false) 0 s1
      else
        let dropped := isFull s1.csu.ah
        let s2 := makeRoomA s1
        match s2.csu.vh.find? (isCandidate id) with
        | some v =>
          let m := sdiff32 ts v.ts
          let s3 := { s2 with csu := { s2.csu with
            ah := s2.csu.ah ++ [{ id := id, ts := ts, used := true }]
            vh := markUsed id s2.csu.vh } }
          respond .ok (observeFlags dropped false true) (wrap 32 m) (estimate m v.ts s3)
        | none =>
          respond .ok (observeFlags dropped false false) 0
            { s2 with csu := { s2.csu with ah := s2.csu.ah ++ [{ id := id, ts := ts, used := false }] } }

/-- `CS_DRIFT sel` (R282). -/
def execCsDrift (sel : BitVec 2) (s : State) : Result :=
  .next <|
    match sel.toNat with
    | 0 => respond .ok (wrap 24 (fdiv s.csu.rate.toInt (2 ^ 8))) (wrap 32 (fdiv s.csu.offset.toInt (2 ^ 16))) s
    | 1 => respond .ok 0 (s.csu.offset.extractLsb' 0 32) s
    | 2 => respond .ok 0 s.csu.rate s
    | _ => respond .ok 0 ((s.csu.offset.extractLsb' 32 16).setWidth 32) s

/-- The offset extrapolated to a local time, 16 fraction bits (R283). -/
def offsetAt (c : CsuState) (ts : BitVec 32) : Int :=
  if c.havePrev then c.offset.toInt + fdiv (c.rate.toInt * sdiff32 ts c.tPrev) (2 ^ 16) else c.offset.toInt

/-- `CS_ALIGN ts` (R283). -/
def execCsAlign (ts : BitVec 32) (s : State) : Result :=
  .next (respond .ok 0 (wrap 32 ((ts.toNat : Int) - fdiv (offsetAt s.csu ts) (2 ^ 16))) s)

/-- `CS_RESYNC` (R284). -/
def execCsResync (s : State) : Result := .next (respond .ok 0 0 (acknowledgeResync s))

/-- `CS_HIST_RD ch, sel, idx` (R285). -/
def execCsHistRd (ch : BitVec 1) (sel : BitVec 1) (idx : BitVec 8) (s : State) : Result :=
  .next <|
    let h := if ch = 0 then s.csu.vh else s.csu.ah
    match h[idx.toNat]? with
    | none => raise .addressError 0 0 s
    | some e => respond .ok e.id (if sel = 0 then e.ts else (BitVec.ofBool e.used).setWidth 32) s

end Sys2Proof.Machine
end

