-- ==== Sys2Proof/Machine/Frame.lean ====
section
/-! DEFINITION. The shared computations of the frame marker unit: geometry (42_frame_marker.md R206), header checksum (R207, R208),
bit layout (R209), finder score (R210). Each reads state and changes none, but for `placeBits`, which computes a new grid. -/

namespace Sys2Proof.Machine

/-- What `geom()` evaluates (R206): grid side, bits per module, the reserved and the payload-carrying indices in raster
order, and whether every stored palette index is of the current palette. -/
structure Geom where
  n : Nat
  b : Nat
  resv : List Nat
  m : List Nat
  tmplOk : Bool
  gridOk : Bool
deriving DecidableEq, Repr

/-- `geom()` (R206). -/
def geom (s : State) : Geom :=
  let cells := List.range (gridBound s)
  let k := paletteBound s
  let resv := cells.filter fun i => tmplResv (readTmpl s i)
  { n := s.fmu.gridN.toNat
    b := s.fmu.palBits.toNat
    resv := resv
    m := cells.filter fun i => !tmplResv (readTmpl s i)
    tmplOk := resv.all fun i => decide ((tmplTval (readTmpl s i)).toNat < k)
    gridOk := cells.all fun i => decide ((readGrid s i).toNat < k) }

/-- `RCNT = #RESV` (R206). -/
def rcnt (g : Geom) : Nat := g.resv.length

/-- `capBits = #M * b` (R206). -/
def capBits (g : Geom) : Nat := g.m.length * g.b

/-- `fdiv(capBits - 72, 8)`, and 0 where the grid holds no header: whole bytes after the header (R219, R222). -/
def availBytes (g : Geom) : Nat := (capBits g - 72) / 8

/-- `SCORE` (R210). -/
def score (g : Geom) (s : State) : Nat :=
  (g.resv.filter fun i => readGrid s i == tmplTval (readTmpl s i)).length

/-- `MISS = RCNT - SCORE` (R210). -/
def missCount (g : Geom) (s : State) : Nat := rcnt g - score g s

/-- One bit of the checksum register's shift (R207). -/
def crcShift (c : BitVec 16) : BitVec 16 := if c.getLsbD 15 then (c <<< 1) ^^^ 0x1021#16 else c <<< 1

/-- One byte into the checksum register (R207). -/
def crcByte (c : BitVec 16) (v : Byte) : BitVec 16 :=
  (List.range 8).foldl (fun c _ => crcShift c) (c ^^^ (v.setWidth 16 <<< 8))

/-- `crc16(L)` (R207). -/
def crc16 (bytes : List Byte) : BitVec 16 := bytes.foldl crcByte 0xFFFF

/-- `HB(fid, tot, len)`: the seven bytes the header checksum covers (R208). -/
def headerBytes (fid : BitVec 24) (tot len : BitVec 16) : List Byte :=
  bytesBe fid.toNat 3 ++ bytesBe tot.toNat 2 ++ bytesBe len.toNat 2

/-- The 72-bit header (R208). -/
def headerBits (fid : BitVec 24) (tot len ck : BitVec 16) : List Bool :=
  bitsOfBytes (headerBytes fid tot len) ++ bitsBe ck.toNat 16

/-- `grid_bits()` (R209). -/
def gridBits (g : Geom) (s : State) : List Bool := g.m.flatMap fun i => bitsBe (readGrid s i).toNat g.b

/-- The values of `count` successive chunks of `b` bits (R209). -/
def chunkValues (b : Nat) : Nat → List Bool → List (BitVec 3)
  | 0, _ => []
  | count + 1, bits => BitVec.ofNat 3 (intBe (bits.take b)) :: chunkValues b count (bits.drop b)

/-- Writes one value to each listed index of the grid. -/
def writeCells (grid : Mem 3) (cells : List (Nat × BitVec 3)) : Mem 3 :=
  cells.foldl (fun m c => Mem.write m c.1 c.2) grid

/-- `place_bits(S)`: the grid with the bit sequence, zero-padded to `capBits`, over the payload-carrying modules (R209). -/
def placeBits (g : Geom) (bits : List Bool) (grid : Mem 3) : Mem 3 :=
  let padded := bits ++ List.replicate (capBits g - bits.length) false
  writeCells grid (g.m.zip (chunkValues g.b g.m.length padded))

/-- The grid with every reserved module at its template value (R222). -/
def placeFinder (g : Geom) (s : State) (grid : Mem 3) : Mem 3 :=
  writeCells grid (g.resv.map fun i => (i, tmplTval (readTmpl s i)))

/-- Bits `start` to `start + n - 1` of a bit sequence as a number (R217, R219). -/
def bitField (bits : List Bool) (start n : Nat) : Nat := intBe ((bits.drop start).take n)

end Sys2Proof.Machine
end

