-- ==== Sys2Proof/Machine/Fmu.lean ====
section
/-! DEFINITION. The meanings of the frame marker unit's commands (42_frame_marker.md). -/

namespace Sys2Proof.Machine

/-- `GRID_WR idx, val` (R200). -/
def execGridWr (idx : BitVec 16) (val : BitVec 3) (s : State) : Result :=
  .next <|
    if gridBound s ≤ idx.toNat then raise .addressError 0 0 s
    else if paletteBound s ≤ val.toNat then raise .configError 0 0 s
    else respond .ok 0 0 { s with fmu := { s.fmu with grid := Mem.write s.fmu.grid idx.toNat val } }

/-- `GRID_RD idx` (R201). -/
def execGridRd (idx : BitVec 16) (s : State) : Result :=
  .next <|
    if gridBound s ≤ idx.toNat then raise .addressError 0 0 s
    else respond .ok 0 ((readGrid s idx.toNat).setWidth 32) s

/-- `TMPL_WR idx, resv, tval` (R202): `tval` is checked whatever `resv` is. -/
def execTmplWr (idx : BitVec 16) (resv : BitVec 1) (tval : BitVec 3) (s : State) : Result :=
  .next <|
    if gridBound s ≤ idx.toNat then raise .addressError 0 0 s
    else if paletteBound s ≤ tval.toNat then raise .configError 0 0 s
    else respond .ok 0 0
      { s with fmu := { s.fmu with tmpl := Mem.write s.fmu.tmpl idx.toNat (tmplElement resv tval) } }

/-- `TMPL_RD idx` (R203). -/
def execTmplRd (idx : BitVec 16) (s : State) : Result :=
  .next <|
    if gridBound s ≤ idx.toNat then raise .addressError 0 0 s
    else respond .ok 0 ((readTmpl s idx.toNat).setWidth 32) s

/-- `FB_WR idx, val` (R204). -/
def execFbWr (idx : BitVec 16) (val : BitVec 8) (s : State) : Result :=
  .next <|
    if Config.fbSize ≤ idx.toNat then raise .addressError 0 0 s
    else respond .ok 0 0 { s with fmu := { s.fmu with fbuf := Mem.write s.fmu.fbuf idx.toNat val } }

/-- `FB_RD idx` (R205). -/
def execFbRd (idx : BitVec 16) (s : State) : Result :=
  .next <|
    if Config.fbSize ≤ idx.toNat then raise .addressError 0 0 s
    else respond .ok 0 ((readFbuf s idx.toNat).setWidth 32) s

/-- `FR_RCNT` and `FR_SCORE` of this candidate (R213, R216). -/
def recordScore (g : Geom) (s : State) : State :=
  { s with fmu := { s.fmu with frRcnt := BitVec.ofNat 16 (rcnt g), frScore := BitVec.ofNat 16 (score g s) } }

/-- `FR_DETECT` (R213). -/
def execFrDetect (s : State) : Result :=
  .next <|
    let g := geom s
    if !g.tmplOk || !g.gridOk then raise .configError 0 0 s
    else
      let t := recordScore g s
      let ra := BitVec.ofNat 24 (rcnt g)
      let rb := BitVec.ofNat 32 (score g s)
      if s.fmu.findTol.toNat < missCount g s then raise .noFinderPattern ra rb t
      else respond .ok ra rb t

/-- Entering a stage writes its number to `PARSE_STATE` (R215 (b)). -/
def enterStage (st : ParseStage) (s : State) : State := { s with fmu := { s.fmu with parseState := st } }

/-- What the stages hold in temporaries (R217): the header fields, as received. -/
structure Header where
  fid : BitVec 24
  tot : BitVec 16
  len : BitVec 16
  ck : BitVec 16
deriving DecidableEq, Repr

/-- The header at the front of the grid's bit sequence (R217). -/
def headerOf (bits : List Bool) : Header :=
  { fid := BitVec.ofNat 24 (bitField bits 0 24)
    tot := BitVec.ofNat 16 (bitField bits 24 16)
    len := BitVec.ofNat 16 (bitField bits 40 16)
    ck := BitVec.ofNat 16 (bitField bits 56 16) }

/-- Every whole byte the bit sequence carries after the header (R219). -/
def bodyOf (bits : List Bool) (avail : Nat) : List Byte :=
  (List.range avail).map fun i => BitVec.ofNat 8 (bitField bits (72 + 8 * i) 8)

/-- Stage `DONE` (R220). -/
def stageDone (h : Header) (body : List Byte) (s : State) : State :=
  let t := enterStage .done s
  respond .ok h.fid (h.tot ++ h.len)
    { t with fmu := { t.fmu with
        hdrFrameId := h.fid, hdrTotal := h.tot, hdrPaylen := h.len, hdrCksum := h.ck
        fbuf := Mem.writeList t.fmu.fbuf 0 body
        fbLen := BitVec.ofNat 16 body.length } }

/-- Stage `EXTRACTING_PAYLOAD` (R219). -/
def stagePayload (g : Geom) (bits : List Bool) (h : Header) (s : State) : State :=
  let t := enterStage .extractingPayload s
  let avail := availBytes g
  if avail < h.len.toNat then raise .malformedBlock 0 (BitVec.ofNat 32 avail) t
  else stageDone h (bodyOf bits avail) t

/-- Stage `VALIDATING_CHECKSUM` (R218). -/
def stageChecksum (g : Geom) (bits : List Bool) (h : Header) (s : State) : State :=
  let t := enterStage .validatingChecksum s
  let want := crc16 (headerBytes h.fid h.tot h.len)
  if want ≠ h.ck then raise .headerChecksumMismatch 0 (want ++ h.ck) t
  else stagePayload g bits h t

/-- Stage `EXTRACTING_HEADER` (R217), which cannot fail. -/
def stageHeader (g : Geom) (s : State) : State :=
  let t := enterStage .extractingHeader s
  let bits := gridBits g t
  stageChecksum g bits (headerOf bits) t

/-- Stage `DETECTING_FINDER` (R216). -/
def stageFinder (g : Geom) (s : State) : State :=
  let t := recordScore g (enterStage .detectingFinder s)
  if s.fmu.findTol.toNat < missCount g s then
    raise .noFinderPattern (BitVec.ofNat 24 (rcnt g)) (BitVec.ofNat 32 (score g s)) t
  else stageHeader g t

/-- `FR_PARSE` (R214). -/
def execFrParse (s : State) : Result :=
  .next <|
    let g := geom s
    if !g.tmplOk || !g.gridOk then raise .configError 0 0 s
    else if capBits g < 72 then raise .configError 0 0 s
    else stageFinder g s

/-- The bytes `FR_FORMAT` serialises after the header: payload, then parity (R222). -/
def frameBody (s : State) : List Byte :=
  (List.range (s.fmu.hdrPaylen.toNat + s.fmu.frParlen.toNat)).map (readFbuf s)

/-- `FR_FORMAT` (R222). -/
def execFrFormat (s : State) : Result :=
  .next <|
    let g := geom s
    if !g.tmplOk then raise .configError 0 0 s
    else
      let f := s.fmu
      let need := 72 + 8 * (f.hdrPaylen.toNat + f.frParlen.toNat)
      if capBits g < need then raise .configError 0 (BitVec.ofNat 32 (availBytes g)) s
      else
        let ck := crc16 (headerBytes f.hdrFrameId f.hdrTotal f.hdrPaylen)
        let bits := headerBits f.hdrFrameId f.hdrTotal f.hdrPaylen ck ++ bitsOfBytes (frameBody s)
        respond .ok (BitVec.ofNat 24 (cdiv need g.b)) (ck.setWidth 32)
          { s with fmu := { f with
              grid := placeBits g bits (placeFinder g s f.grid)
              hdrCksum := ck
              frRcnt := BitVec.ofNat 16 (rcnt g) } }

end Sys2Proof.Machine
end

