-- ==== Sys2Proof/Machine/Gf256.lean ====
section
/-! DEFINITION. The symbol field (41_rs_fec.md R150 to R152) and polynomials over it (R153). -/

namespace Sys2Proof.Machine

/-- `gadd`: addition, and subtraction, in the field (R150). -/
def gadd (a b : Sym) : Sym := a ^^^ b

/-- The carry-less product of two symbols, up to 15 bits (R151). -/
def clmul (a b : Sym) : BitVec 15 :=
  (List.range 8).foldl (fun p i => if b.getLsbD i then p ^^^ (a.setWidth 15 <<< i) else p) 0

/-- Reduction modulo the field polynomial `GF_POLY = 0x11D` (R151). -/
def reducePoly (p : BitVec 15) : Sym :=
  ([14, 13, 12, 11, 10, 9, 8].foldl (fun p i => if p.getLsbD i then p ^^^ (0x11D#15 <<< (i - 8)) else p) p).setWidth 8

/-- `gmul`: multiplication in the field (R151). -/
def gmul (a b : Sym) : Sym := reducePoly (clmul a b)

/-- `gpow` (R152). -/
def gpow (a : Sym) : Nat → Sym
  | 0 => 1
  | e + 1 => gmul (gpow a e) a

/-- `ALPHA`: the primitive element (00_scope.md R9). -/
def alpha : Sym := 0x02

/-- `α^e` (R152). -/
def alphaPow (e : Nat) : Sym := gpow alpha (e % 255)

/-- `ginv(a)` for `a != 0` (R152): `a^254`, the product of `a^2, a^4, ..., a^128`. No rule evaluates it at 0. -/
def ginv (a : Sym) : Sym :=
  let a2 := gmul a a
  let a4 := gmul a2 a2
  let a8 := gmul a4 a4
  let a16 := gmul a8 a8
  let a32 := gmul a16 a16
  let a64 := gmul a32 a32
  let a128 := gmul a64 a64
  gmul a128 (gmul a64 (gmul a32 (gmul a16 (gmul a8 (gmul a4 a2)))))

/-- Horner evaluation of a polynomial written highest degree first (R153). -/
def polyEval (f : List Sym) (v : Sym) : Sym := f.foldl (fun y c => gadd (gmul y v) c) 0

/-- Sum of two polynomials written lowest degree first. -/
def polyAdd : List Sym → List Sym → List Sym
  | [], q => q
  | p, [] => p
  | a :: p, b :: q => gadd a b :: polyAdd p q

/-- A polynomial times a symbol. -/
def polyScale (k : Sym) (p : List Sym) : List Sym := p.map (gmul k)

/-- Product of two polynomials written lowest degree first. -/
def polyMul : List Sym → List Sym → List Sym
  | [], _ => []
  | a :: p, q => polyAdd (polyScale a q) (0 :: polyMul p q)

/-- Value at `v` of a polynomial written lowest degree first. -/
def polyEvalLow (f : List Sym) (v : Sym) : Sym := polyEval f.reverse v

/-- Degree of a polynomial written lowest degree first; 0 for the zero polynomial. -/
def polyDeg (f : List Sym) : Nat := (f.reverse.dropWhile (· == 0)).length - 1

/-- Formal derivative of a polynomial written lowest degree first: the odd-degree terms, shifted down (R167 step 6). -/
def polyDeriv : List Sym → List Sym
  | [] => []
  | [_] => []
  | [_, b] => [b]
  | _ :: b :: rest => b :: 0 :: polyDeriv rest

end Sys2Proof.Machine
end

