-- ==== Sys2Proof/Machine/RsCode.lean ====
section
/-! DEFINITION. The code of the Reed-Solomon unit: generator polynomial, positions, parity count, systematic encoding, the
decoding function (41_rs_fec.md R154 to R159, R167), and the interleaving permutation (R170). -/

namespace Sys2Proof.Machine

/-- `P(K)` under a redundancy ratio of `rpct` percent (R156). -/
def parityCount (rpct k : Nat) : Nat := oddup (cdiv (k * rpct) 100)

/-- The generator polynomial `g_P`, highest degree first (R154): one factor `x - α^i` after the other, `FCR = 0`. -/
def genPoly : Nat → List Sym
  | 0 => [1]
  | p + 1 => List.zipWith gadd (genPoly p ++ [0]) (0 :: polyScale (alphaPow p) (genPoly p))

/-- The locator `X_j = α^(n-1-j)` of position `j` in a block of length `n` (R155). -/
def locator (n j : Nat) : Sym := alphaPow (n - 1 - j)

/-- The syndrome `S_i(r) = r(α^i)` (R155). -/
def syndrome (r : List Sym) (i : Nat) : Sym := polyEval r (alphaPow i)

/-- The syndromes `S_0, ..., S_(P-1)` (R155). -/
def syndromes (p : Nat) (r : List Sym) : List Sym := (List.range p).map (syndrome r)

/-- A list is a codeword for parity count `p`: every syndrome is 0 (R155). -/
def isCodeword (p : Nat) (c : List Sym) : Bool := (syndromes p c).all (· == 0)

/-- One step of the shift-register encoder: `gTail` is the generator polynomial without its leading 1 (R157). -/
def lfsrStep (gTail reg : List Sym) (d : Sym) : List Sym :=
  let f := gadd d (reg.headD 0)
  List.zipWith gadd (reg.tail ++ [0]) (polyScale f gTail)

/-- The parity symbols of `d`, the highest-degree coefficient first (R157). -/
def paritySymbols (p : Nat) (d : List Sym) : List Sym :=
  d.foldl (lfsrStep (genPoly p).tail) (List.replicate p 0)

/-- `ENC`: the data symbols and then the parity symbols (R157). -/
def encodeBlock (p : Nat) (d : List Sym) : List Sym := d ++ paritySymbols p d

/-! ### The decoding function -/

/-- `#{ j not in E : c[j] != r[j] }`, `E` given by its marks (R159). -/
def errorCount (r c : List Sym) (era : List Bool) : Nat :=
  ((List.zip (List.zip r c) era).filter fun x => !x.2 && x.1.1 != x.1.2).length

/-- `#E` (R159). -/
def erasureCount (era : List Bool) : Nat := (era.filter id).length

/-- The state of the Berlekamp-Massey iteration: `conn` is the connection polynomial, lowest degree first, `len` its register
length, `prev`, `prevDisc`, `shift` the polynomial before the last length change, its discrepancy, and the steps since. -/
structure BmState where
  conn : List Sym
  len : Nat
  prev : List Sym
  prevDisc : Sym
  shift : Nat
deriving DecidableEq, Repr

/-- The start of the iteration. -/
def bmStart : BmState := { conn := [1], len := 0, prev := [1], prevDisc := 1, shift := 1 }

/-- The discrepancy `sum_{i=0..L} Λ_i U_(n-i)` at term `n` of the sequence `u`. -/
def bmDiscrepancy (u : List Sym) (b : BmState) (n : Nat) : Sym :=
  (List.range (b.len + 1)).foldl (fun acc i => gadd acc (gmul (b.conn.getD i 0) (u.getD (n - i) 0))) 0

/-- One term of the iteration. -/
def bmStep (u : List Sym) (b : BmState) (n : Nat) : BmState :=
  let d := bmDiscrepancy u b n
  if d = 0 then { b with shift := b.shift + 1 }
  else
    let corr := List.replicate b.shift 0 ++ polyScale (gmul d (ginv b.prevDisc)) b.prev
    if 2 * b.len ≤ n then
      { conn := polyAdd b.conn corr, len := n + 1 - b.len, prev := b.conn, prevDisc := d, shift := 1 }
    else { b with conn := polyAdd b.conn corr, shift := b.shift + 1 }

/-- Berlekamp-Massey over a sequence: the shortest recurrence that generates it (R167 step 3; PRESUMED, log 5). -/
def berlekampMassey (u : List Sym) : BmState := (List.range u.length).foldl (bmStep u) bmStart

/-- The product over the positions of `1 + X_j x`, lowest degree first (R167 step 2). -/
def locatorPoly (n : Nat) (positions : List Nat) : List Sym :=
  positions.foldl (fun p j => polyMul p [1, locator n j]) [1]

/-- The value at position `j` by the evaluator `omega` and the derivative `psi'` (R167 step 7); none where the derivative
vanishes. -/
def forneyValue (n : Nat) (omega psiDeriv : List Sym) (j : Nat) : Option Sym :=
  let x := locator n j
  let xInv := ginv x
  let den := polyEvalLow psiDeriv xInv
  if den = 0 then none else some (gmul x (gmul (polyEvalLow omega xInv) (ginv den)))

/-- Step 7 of R167 over all positions from `j` on: `r[j]`, its erasure mark, and whether `j` is a root. -/
def correctFrom (n : Nat) (omega psiDeriv : List Sym) : Nat → List (Sym × Bool × Bool) → Option (List Sym)
  | _, [] => some []
  | j, (r, e, root) :: rest =>
    if e || root then
      match forneyValue n omega psiDeriv j, correctFrom n omega psiDeriv (j + 1) rest with
      | some v, some cs => some (gadd (if e then 0 else r) v :: cs)
      | _, _ => none
    else
      match correctFrom n omega psiDeriv (j + 1) rest with
      | some cs => some (r :: cs)
      | none => none

/-- `DEC(r, E)` for parity count `p`, computed by the algorithm of R167, whose step 8 makes it agree with the definition R159
(DEDUCED, log 5): the codeword within the bound and the number of unerased symbols it changes, or nothing. -/
def decodeBlock (p : Nat) (r : List Sym) (era : List Bool) : Option (List Sym × Nat) :=
  let n := r.length
  let s := erasureCount era
  if p < s then none
  else
    let erased := (List.range n).filter fun j => era.getD j false
    let r' := List.zipWith (fun x e => if e then 0 else x) r era
    let synd := syndromes p r'
    let gamma := locatorPoly n erased
    let t := (polyMul synd gamma).take p
    let bm := berlekampMassey (t.drop s)
    if polyDeg bm.conn ≠ bm.len ∨ p < 2 * bm.len + s then none
    else
      let isRoot := fun j => polyEvalLow bm.conn (ginv (locator n j)) == 0
      let roots := (List.range n).filter isRoot
      if roots.length ≠ bm.len ∨ roots.any (fun j => era.getD j false) then none
      else
        let psi := polyMul gamma bm.conn
        let omega := (polyMul synd psi).take p
        match correctFrom n omega (polyDeriv psi) 0 (List.zip r (List.zip era ((List.range n).map isRoot))) with
        | none => none
        | some c =>
          let e := errorCount r c era
          if isCodeword p c && decide (2 * e + s ≤ p) then some (c, e) else none

/-! ### The interleaving permutation -/

/-- `len(f)`: symbols of slice `f` in a block of `n` over `d` frames (R170). -/
def sliceLen (n d f : Nat) : Nat := cdiv (n - f) d

/-- `off(f)`: where slice `f` begins (R170). -/
def sliceOff (n d f : Nat) : Nat := ((List.range f).map (sliceLen n d)).sum

/-- `sigma(j)`: the slice-major index of natural index `j` (R170). -/
def sigma (n d j : Nat) : Nat := sliceOff n d (j % d) + j / d

end Sys2Proof.Machine
end

