-- ==== Sys2Proof/Machine/Rsu.lean ====
section
/-! DEFINITION. The meanings of the Reed-Solomon unit's commands (41_rs_fec.md). -/

namespace Sys2Proof.Machine

/-- `P(k)` under the current `RS_RPCT` (R156). -/
def parityOf (s : State) (k : BitVec 8) : Nat := parityCount s.rsu.rsRpct.toNat k.toNat

/-- The first `n` symbols of the codeword buffer. -/
def cwSymbols (s : State) (n : Nat) : List Sym := (List.range n).map (readCw s)

/-- The first `n` erasure marks. -/
def eraMarks (s : State) (n : Nat) : List Bool := (List.range n).map fun j => (readEra s j).getLsbD 0

/-- The codeword buffer with these symbols and erasure marks from index 0 on. -/
def storeBlock (syms : List Sym) (marks : List Bool) (s : State) : State :=
  { s with rsu := { s.rsu with
      cw := Mem.writeList s.rsu.cw 0 syms
      era := Mem.writeList s.rsu.era 0 (marks.map BitVec.ofBool) } }

/-- The symbol-count check of a whole block: `k = 0`, or `n > 255`, or `CW_LEN != n` (R166, R172, R173). -/
def wrongCount (s : State) (k : BitVec 8) : Bool :=
  let n := k.toNat + parityOf s k
  k == 0 || decide (Config.nCwMax < n) || s.rsu.cwLen.toNat != n

/-- `CW_CLR` (R160). -/
def execCwClr (s : State) : Result :=
  .next (respond .ok 0 0 { s with rsu := { s.rsu with cwLen := 0, cwOk := false, ilv := false } })

/-- `CW_PUSH sym, era` (R161). -/
def execCwPush (sym : BitVec 8) (era : BitVec 1) (s : State) : Result :=
  .next <|
    if s.rsu.ilv then raise .configError 0 0 s
    else
      let len := s.rsu.cwLen.toNat
      if Config.nCwMax ≤ len then
        raise .malformedBlock 0 0 { s with rsu := { s.rsu with cwLen := 256, cwOk := false } }
      else
        respond .ok 0 (BitVec.ofNat 32 (len + 1))
          { s with rsu := { s.rsu with
              cw := Mem.write s.rsu.cw len sym
              era := Mem.write s.rsu.era len era
              cwLen := BitVec.ofNat 9 (len + 1)
              cwOk := false } }

/-- `CW_RD idx` (R162): `RB[8]` the erasure mark, `RB[7:0]` the symbol. -/
def execCwRd (idx : BitVec 8) (s : State) : Result :=
  .next <|
    if cwBound s ≤ idx.toNat then raise .addressError 0 0 s
    else respond .ok 0 ((readEra s idx.toNat ++ readCw s idx.toNat).setWidth 32) s

/-- `RS_ENC k` (R163): the data symbols stay where they are and the parity symbols of `ENC` follow them. -/
def execRsEnc (k : BitVec 8) (s : State) : Result :=
  .next <|
    if s.rsu.ilv then raise .configError 0 0 s
    else
      let p := parityOf s k
      let n := k.toNat + p
      if k = 0 ∨ Config.nCwMax < n ∨ s.rsu.cwLen.toNat ≠ k.toNat then raise .malformedBlock 0 0 (discardBlock s)
      else
        respond .ok (BitVec.ofNat 24 p) (BitVec.ofNat 32 n)
          { s with rsu := { s.rsu with
              cw := Mem.writeList s.rsu.cw k.toNat (paritySymbols p (cwSymbols s k.toNat))
              era := Mem.writeList s.rsu.era 0 (List.replicate n 0)
              cwLen := BitVec.ofNat 9 n, cwOk := true, lastP := BitVec.ofNat 8 p, lastK := k } }

/-- `RS_DEC k` (R166). `RS_LAST` is written once the symbol count is right, whatever the decoder finds. -/
def execRsDec (k : BitVec 8) (s : State) : Result :=
  .next <|
    if s.rsu.ilv then raise .configError 0 0 s
    else if wrongCount s k then raise .malformedBlock 0 0 (discardBlock s)
    else
      let p := parityOf s k
      let n := k.toNat + p
      let t := { s with rsu := { s.rsu with lastP := BitVec.ofNat 8 p, lastK := k } }
      let marks := eraMarks s n
      match decodeBlock p (cwSymbols s n) marks with
      | none => raise .uncorrectableErrors 0 0 (discardBlock t)
      | some (c, e) =>
        let u := storeBlock c (List.replicate n false) t
        respond .ok (BitVec.ofNat 24 e) (BitVec.ofNat 32 (erasureCount marks))
          { u with rsu := { u.rsu with
              cwOk := true, errCnt := BitVec.ofNat 8 e, eraCnt := BitVec.ofNat 8 (erasureCount marks) } }

/-- The buffer in slice-major order: position `sigma(j)` takes symbol `j` (R172). -/
def splitBlock (n d : Nat) (s : State) : State :=
  let place := fun (t : RsuState) (j : Nat) =>
    { t with
      cw := Mem.write t.cw (sigma n d j) (readCw s j)
      era := Mem.write t.era (sigma n d j) (readEra s j) }
  { s with rsu := (List.range n).foldl place s.rsu }

/-- `ILV_SPLIT k` (R172): `RA` the depth, `RB` the longest slice length. -/
def execIlvSplit (k : BitVec 8) (s : State) : Result :=
  .next <|
    if s.rsu.ilv then raise .configError 0 0 s
    else if wrongCount s k then raise .malformedBlock 0 0 (discardBlock s)
    else
      let p := parityOf s k
      let n := k.toNat + p
      let d := s.rsu.ilvD.toNat
      if p < cdiv n d then raise .configError 0 0 s
      else
        let t := splitBlock n d s
        respond .ok (BitVec.ofNat 24 d) (BitVec.ofNat 32 (cdiv n d))
          { t with rsu := { t.rsu with ilv := true, cwOk := false } }

/-- The erasure marks after a merge, natural order: a symbol of a lost slice is erased (R173). -/
def mergedMarks (n d : Nat) (lost : BitVec 16) (s : State) : List Bool :=
  (List.range n).map fun j => (readEra s (sigma n d j)).getLsbD 0 || lost.getLsbD (j % d)

/-- `ILV_MERGE k, lost` (R173): `RB` the erasures now marked. -/
def execIlvMerge (k : BitVec 8) (lost : BitVec 16) (s : State) : Result :=
  .next <|
    if wrongCount s k then
      let t := discardBlock s
      raise .malformedBlock 0 0 { t with rsu := { t.rsu with ilv := false } }
    else
      let p := parityOf s k
      let n := k.toNat + p
      let d := s.rsu.ilvD.toNat
      if p < cdiv n d ∨ lost >>> d ≠ 0 then raise .configError 0 0 s
      else
        let marks := mergedMarks n d lost s
        let t := storeBlock ((List.range n).map fun j => readCw s (sigma n d j)) marks s
        respond .ok 0 (BitVec.ofNat 32 (erasureCount marks))
          { t with rsu := { t.rsu with ilv := false, cwOk := false } }

end Sys2Proof.Machine
end

