-- ==== Sys2Proof/Machine/Dispatch.lean ====
section
/-! DEFINITION. The dispatch of a decoded command to its meaning: one arm per row of 30_encoding.md R105. -/

namespace Sys2Proof.Machine

def exec (i : Instr) (s : State) : Host.Outcome State Fault Refusal :=
  match i with
  | .nop => Sys2Proof.Machine.execNop s
  | .cfgWr reg val => Sys2Proof.Machine.execCfgWr reg val s
  | .cfgRd reg => Sys2Proof.Machine.execCfgRd reg s
  | .softReset => Sys2Proof.Machine.execSoftReset s
  | .evtClr mask => Sys2Proof.Machine.execEvtClr mask s
  | .cwClr => Sys2Proof.Machine.execCwClr s
  | .cwPush sym era => Sys2Proof.Machine.execCwPush sym era s
  | .cwRd idx => Sys2Proof.Machine.execCwRd idx s
  | .rsEnc k => Sys2Proof.Machine.execRsEnc k s
  | .rsDec k => Sys2Proof.Machine.execRsDec k s
  | .ilvSplit k => Sys2Proof.Machine.execIlvSplit k s
  | .ilvMerge k lost => Sys2Proof.Machine.execIlvMerge k lost s
  | .gridWr idx val => Sys2Proof.Machine.execGridWr idx val s
  | .gridRd idx => Sys2Proof.Machine.execGridRd idx s
  | .tmplWr idx resv tval => Sys2Proof.Machine.execTmplWr idx resv tval s
  | .tmplRd idx => Sys2Proof.Machine.execTmplRd idx s
  | .fbWr idx val => Sys2Proof.Machine.execFbWr idx val s
  | .fbRd idx => Sys2Proof.Machine.execFbRd idx s
  | .frDetect => Sys2Proof.Machine.execFrDetect s
  | .frParse => Sys2Proof.Machine.execFrParse s
  | .frFormat => Sys2Proof.Machine.execFrFormat s
  | .abWr idx val => Sys2Proof.Machine.execAbWr idx val s
  | .abRd idx => Sys2Proof.Machine.execAbRd idx s
  | .ptWr idx val => Sys2Proof.Machine.execPtWr idx val s
  | .ptRd idx => Sys2Proof.Machine.execPtRd idx s
  | .auCorr => Sys2Proof.Machine.execAuCorr s
  | .csObserveV id ts => Sys2Proof.Machine.execCsObserveV id ts s
  | .csObserveA id ts => Sys2Proof.Machine.execCsObserveA id ts s
  | .csDrift sel => Sys2Proof.Machine.execCsDrift sel s
  | .csAlign ts => Sys2Proof.Machine.execCsAlign ts s
  | .csResync => Sys2Proof.Machine.execCsResync s
  | .csHistRd ch sel idx => Sys2Proof.Machine.execCsHistRd ch sel idx s

end Sys2Proof.Machine
end

