-- ==== Sys2Proof/Machine/Step.lean ====
section
/-! DEFINITION. One step of the machine: the next input the host has presented is taken; a command word is decoded and executed
to completion (30_encoding.md R103, R104). -/

namespace Sys2Proof.Machine

/-- One step. A command word that decodes is executed; one that does not raises `IllegalCommand` (R104, R106, R107). A pulse of
`rst_n` resets the block (70_reset_and_hazards.md R350). With nothing presented the block is idle and stays as it is (R350; DESIGN
CHOICE, log 3). -/
def step (s : State) : Host.Outcome State Fault Refusal :=
  match fetch s with
  | none => .next s
  | some (.hardReset, t) => .next (hardReset t)
  | some (.command w, t) =>
    match decode w with
    | .ok i => exec i t
    | .error _ => .next (raise .illegalCommand 0 0 t)

/-- The state with a command word presented as the very next input of the block (log 1). -/
def State.withFetchWord (s : State) (nbits w : Nat) : State := presentNext s (tableWord nbits w)

end Sys2Proof.Machine
end

