-- ==== Sys2Proof/WellFormed.lean ====
section
/-! DEFINITION. Well-formedness. A command's operands have exactly their fields' widths, so every term of `Instr` is well formed
by its type; what can be ill formed is a command WORD: its opcode may be reserved (30_encoding.md R106) or a bit its row does not
list as a field may be 1 (R107). The two checks are written here from the "fields" column of R105, apart from the masks the
decoder uses. -/

namespace Sys2Proof

/-- A command word has an assigned opcode: the ranges R106 reserves are left out. -/
def opcodeAssigned (w : Word64) : Bool :=
  let op := (w.extractLsb' 56 8).toNat
  op ≤ 0x04 || (0x10 ≤ op && op ≤ 0x16) || (0x20 ≤ op && op ≤ 0x28) || (0x30 ≤ op && op ≤ 0x34)
    || (0x40 ≤ op && op ≤ 0x45)

/-- How many low bits of `A` are operand bits, per opcode (the "fields" column of R105). `CS_HIST_RD` is the one row
whose bits of `A` are not a run from bit 0: its A[7:2] is checked beside it. -/
def usedBitsA (op : Nat) : Nat :=
  if op = 0x01 || op = 0x02 || op = 0x12 || op = 0x13 || op = 0x14 || op = 0x15 || op = 0x16 then 8
  else if op = 0x11 then 9
  else if (0x20 ≤ op && op ≤ 0x25) || (0x30 ≤ op && op ≤ 0x33) || op = 0x45 then 16
  else if op = 0x40 || op = 0x41 then 24
  else if op = 0x42 then 2
  else 0

/-- How many low bits of `B` are operand bits, per opcode (the "fields" column of R105). `EVT_CLR` does not use B[0],
which is checked beside it. -/
def usedBitsB (op : Nat) : Nat :=
  if op = 0x01 || op = 0x40 || op = 0x41 || op = 0x43 then 32
  else if op = 0x16 || op = 0x30 || op = 0x32 then 16
  else if op = 0x24 then 8
  else if op = 0x22 then 4
  else if op = 0x04 || op = 0x20 then 3
  else 0

/-- Every operand bit the command's row does not list as a field is 0 (R107). -/
def reservedBitsZero (w : Word64) : Bool :=
  let op := (w.extractLsb' 56 8).toNat
  let a := (w.extractLsb' 32 24).toNat
  let b := (w.extractLsb' 0 32).toNat
  decide (a < 2 ^ usedBitsA op) && decide (b < 2 ^ usedBitsB op)
    && !(op = 0x04 && b % 2 = 1) && !(op = 0x45 && a / 4 % 64 ≠ 0)

/-- A legal command word (R104 to R107). -/
def legalWord (w : Word64) : Bool := opcodeAssigned w && reservedBitsZero w

end Sys2Proof
end

