-- ==== Sys2Proof/Safety.lean ====
section
/-! DEFINITION. The terms the claims are made in: what a finished command leaves, the register map as R22 tabulates it, the sequence
of responses, the units, the invariants of the machine, and the declarative form of the decoder's rule R159. -/

namespace Sys2Proof.Safety

open Sys2Proof Sys2Proof.Machine

/-- `s` after a command that ends with this outcome code and these results and changes nothing else: `STATUS.CODE`, the
response word (30_encoding.md R101) and the model's counter (log 2). -/
def settled (code : BitVec 8) (ra : BitVec 24) (rb : BitVec 32) (s : State) : State :=
  { s with
    ctl := { s.ctl with status := code }
    rsp := some (code ++ ra ++ rb)
    draws := s.draws + 1 }

/-- The word of opcode `op` and operands `a`, `b` is the command `i` (30_encoding.md R104, R105). -/
def hasWord (i : Instr) (op : BitVec 8) (a : BitVec 24) (b : BitVec 32) : Prop := decode (commandWord op a b) = .ok i

/-- The registers of access `RW` of 10_state.md R22: index, least and greatest legal value. -/
def rwTable : List (Nat × Nat × Nat) :=
  [(0x03, 0, 7), (0x10, 25, 50), (0x11, 2, 16), (0x20, 1, 255), (0x21, 1, 3), (0x22, 0, 65535), (0x23, 0, 16777215),
    (0x24, 0, 65535), (0x25, 0, 65535), (0x27, 0, 65535), (0x30, 0, 4096), (0x31, 0, 1024), (0x32, 0, 4294967295),
    (0x33, 0, 65535), (0x40, 0, 2147483647), (0x41, 0, 255)]

/-- The indices of the registers of access `RO` of 10_state.md R22. -/
def roIndices : List Nat :=
  [0x00, 0x01, 0x02, 0x12, 0x13, 0x26, 0x28, 0x29, 0x2A, 0x2B, 0x34, 0x35, 0x36, 0x42, 0x43, 0x44, 0x45, 0x46, 0x47, 0x48]

/-- What each register index reads as, index and value as numbers (10_state.md R22 to R51). -/
def registerTable (s : State) : List (Nat × Nat) :=
  [(0x00, 0x48445407), (0x01, s.ctl.status.toNat), (0x02, s.ctl.evt.toNat), (0x03, s.ctl.evtEn.toNat),
    (0x10, s.rsu.rsRpct.toNat), (0x11, s.rsu.ilvD.toNat),
    (0x12, s.rsu.cwLen.toNat + 2 ^ 9 * s.rsu.cwOk.toNat + 2 ^ 10 * s.rsu.ilv.toNat + 2 ^ 16 * s.rsu.errCnt.toNat
      + 2 ^ 24 * s.rsu.eraCnt.toNat),
    (0x13, s.rsu.lastK.toNat + 2 ^ 8 * s.rsu.lastP.toNat),
    (0x20, s.fmu.gridN.toNat), (0x21, s.fmu.palBits.toNat), (0x22, s.fmu.findTol.toNat), (0x23, s.fmu.hdrFrameId.toNat),
    (0x24, s.fmu.hdrTotal.toNat), (0x25, s.fmu.hdrPaylen.toNat), (0x26, s.fmu.hdrCksum.toNat), (0x27, s.fmu.frParlen.toNat),
    (0x28, s.fmu.fbLen.toNat), (0x29, s.fmu.frScore.toNat), (0x2A, s.fmu.frRcnt.toNat),
    (0x2B, match s.fmu.parseState with
      | .detectingFinder => 0
      | .extractingHeader => 1
      | .validatingChecksum => 2
      | .extractingPayload => 3
      | .done => 4),
    (0x30, s.apc.abLen.toNat), (0x31, s.apc.ptLen.toNat), (0x32, s.apc.auThreshLo.toNat), (0x33, s.apc.auThreshHi.toNat),
    (0x34, s.apc.auPeakLo.toNat), (0x35, s.apc.auPeakHi.toNat), (0x36, s.apc.auLag.toNat),
    (0x40, s.csu.histWin.toNat), (0x41, s.csu.resyncN.toNat), (0x42, s.csu.offset.toNat % 2 ^ 32),
    (0x43, s.csu.offset.toNat / 2 ^ 32), (0x44, s.csu.rate.toNat), (0x45, s.csu.noMatch.toNat),
    (0x46, s.csu.vh.length + 2 ^ 8 * s.csu.ah.length + 2 ^ 16 * s.csu.havePrev.toNat),
    (0x47, s.csu.mPrev.toNat), (0x48, s.csu.tPrev.toNat)]

/-- The "reset" column of 10_state.md R22. -/
def resetTable : List (Nat × Nat) :=
  [(0x00, 0x48445407), (0x01, 0), (0x02, 0), (0x03, 0), (0x10, 35), (0x11, 5), (0x12, 0), (0x13, 0), (0x20, 100), (0x21, 2),
    (0x22, 0), (0x23, 0), (0x24, 0), (0x25, 0), (0x26, 0), (0x27, 0), (0x28, 0), (0x29, 0), (0x2A, 0), (0x2B, 0), (0x30, 0),
    (0x31, 0), (0x32, 0xFFFFFFFF), (0x33, 0x7FFF), (0x34, 0), (0x35, 0), (0x36, 0), (0x40, 2000000), (0x41, 5), (0x42, 0),
    (0x43, 0), (0x44, 0), (0x45, 0), (0x46, 0), (0x47, 0), (0x48, 0)]

/-- The seven buffer memories and the two histories are the same, and so is what the host has still to present. -/
def sameBuffers (s t : State) : Prop :=
  t.rsu.cw = s.rsu.cw ∧ t.rsu.era = s.rsu.era ∧ t.fmu.grid = s.fmu.grid ∧ t.fmu.tmpl = s.fmu.tmpl
    ∧ t.fmu.fbuf = s.fmu.fbuf ∧ t.apc.abuf = s.apc.abuf ∧ t.apc.ptmpl = s.apc.ptmpl
    ∧ t.csu.vh = s.csu.vh ∧ t.csu.ah = s.csu.ah ∧ t.inputs = s.inputs

/-- The result field `RB` of the response `CFG_RD` gives for a register index; none where it does not answer `OK`. -/
def configRead (index : BitVec 8) (s : State) : Option (BitVec 32) :=
  match exec (.cfgRd index) s with
  | .next t => if t.ctl.status = 0 then t.rsp.map fun w => w.extractLsb' 0 32 else none
  | _ => none

/-- Memory `after` holds `v` at `i` and what `before` held everywhere else. -/
def storedOne {w : Nat} (before after : Mem w) (i : Nat) (v : BitVec w) : Prop :=
  Mem.get? after i = some v ∧ ∀ a, a ≠ i → Mem.get? after a = Mem.get? before a

/-- Memory `after` holds `vs` from index `base` on and what `before` held everywhere else. -/
def storedRun {w : Nat} (before after : Mem w) (base : Nat) (vs : List (BitVec w)) : Prop :=
  (∀ j, j < vs.length → Mem.get? after (base + j) = vs[j]?)
    ∧ ∀ a, a < base ∨ base + vs.length ≤ a → Mem.get? after a = Mem.get? before a

/-- The response words emitted by `n` steps, in order (30_encoding.md R102, R103). -/
def responses : Nat → State → List Word64
  | 0, _ => []
  | n + 1, s =>
    match step s with
    | .next t => t.rsp.toList ++ responses n t
    | _ => []

/-- The state after `n` steps, if every one of them answers a next state. -/
def after : Nat → State → Option State
  | 0, s => some s
  | n + 1, s =>
    match step s with
    | .next t => after n t
    | _ => none

/-- The five units (00_scope.md R2). -/
inductive BlockUnit where
  | ctl | rsu | fmu | apc | csu
deriving DecidableEq, Repr

/-- The unit that executes a command (30_encoding.md R105). -/
def unitOf : Instr → BlockUnit
  | .nop | .cfgWr _ _ | .cfgRd _ | .softReset | .evtClr _ => .ctl
  | .cwClr | .cwPush _ _ | .cwRd _ | .rsEnc _ | .rsDec _ | .ilvSplit _ | .ilvMerge _ _ => .rsu
  | .gridWr _ _ | .gridRd _ | .tmplWr _ _ _ | .tmplRd _ | .fbWr _ _ | .fbRd _ | .frDetect | .frParse | .frFormat => .fmu
  | .abWr _ _ | .abRd _ | .ptWr _ _ | .ptRd _ | .auCorr => .apc
  | .csObserveV _ _ | .csObserveA _ _ | .csDrift _ | .csAlign _ | .csResync | .csHistRd _ _ _ => .csu

/-- The read commands (20_memory.md R88). -/
def isRead : Instr → Bool
  | .cfgRd _ | .cwRd _ | .gridRd _ | .tmplRd _ | .fbRd _ | .abRd _ | .ptRd _ | .csHistRd _ _ _ | .csDrift _ | .csAlign _ => true
  | .nop | .cfgWr _ _ | .softReset | .evtClr _ | .cwClr | .cwPush _ _ | .rsEnc _ | .rsDec _ | .ilvSplit _ | .ilvMerge _ _
  | .gridWr _ _ | .tmplWr _ _ _ | .fbWr _ _ | .frDetect | .frParse | .frFormat | .abWr _ _ | .ptWr _ _ | .auCorr
  | .csObserveV _ _ | .csObserveA _ _ | .csResync => false

/-- The outcome codes a decoded command can end with (60_exceptions.md R311, R315). -/
def outcomesOf : Instr → List (BitVec 8)
  | .nop | .softReset | .evtClr _ | .cwClr | .csDrift _ | .csAlign _ | .csResync => [0x00]
  | .cfgWr _ _ | .gridWr _ _ | .tmplWr _ _ _ => [0x00, 0x11, 0x12]
  | .cfgRd _ | .cwRd _ | .gridRd _ | .tmplRd _ | .fbWr _ _ | .fbRd _ | .abWr _ _ | .abRd _ | .ptWr _ _ | .ptRd _
  | .csHistRd _ _ _ => [0x00, 0x11]
  | .cwPush _ _ | .rsEnc _ | .ilvSplit _ | .ilvMerge _ _ => [0x00, 0x01, 0x12]
  | .rsDec _ => [0x00, 0x01, 0x02, 0x12]
  | .frDetect => [0x00, 0x03, 0x12]
  | .frParse => [0x00, 0x01, 0x03, 0x04, 0x12]
  | .frFormat => [0x00, 0x12]
  | .auCorr => [0x00, 0x05, 0x12]
  | .csObserveV _ _ | .csObserveA _ _ => [0x00, 0x07]

/-! ### The grid as the frame rules see it -/

/-- `RESV`: the reserved modules, in raster order (42_frame_marker.md R206). -/
def reservedCells (s : State) : List Nat :=
  (List.range (s.fmu.gridN.toNat ^ 2)).filter fun i => decide (8 ≤ (readTmpl s i).toNat)

/-- `M`: the payload-carrying modules, in raster order (R206). -/
def payloadCells (s : State) : List Nat :=
  (List.range (s.fmu.gridN.toNat ^ 2)).filter fun i => decide ((readTmpl s i).toNat < 8)

/-- `tmpl_ok` (R206). -/
def templateFits (s : State) : Prop := ∀ i ∈ reservedCells s, (readTmpl s i).toNat % 8 < 2 ^ s.fmu.palBits.toNat

/-- `grid_ok` (R206). -/
def gridFits (s : State) : Prop := ∀ i < s.fmu.gridN.toNat ^ 2, (readGrid s i).toNat < 2 ^ s.fmu.palBits.toNat

/-- `SCORE` (R210). -/
def finderScore (s : State) : Nat :=
  ((reservedCells s).filter fun i => (readGrid s i).toNat == (readTmpl s i).toNat % 8).length

/-- `MISS <= FIND_TOL`: the finder pattern is detected (R211). -/
def finderDetected (s : State) : Prop := (reservedCells s).length ≤ finderScore s + s.fmu.findTol.toNat

/-- `capBits` (R206). -/
def capacity (s : State) : Nat := (payloadCells s).length * s.fmu.palBits.toNat

/-- `grid_bits()` (R209). -/
def gridSequence (s : State) : List Bool :=
  (payloadCells s).flatMap fun i => bitsBe (readGrid s i).toNat s.fmu.palBits.toNat

/-- The number the bits from `start` to `start + n - 1` of a sequence stand for, first bit most significant (00_scope.md R14). -/
def field (bits : List Bool) (start n : Nat) : Nat := intBe ((bits.drop start).take n)

/-- The entries of a history that are not older than the window at time `ts` (44_channel_sync.md R272). -/
def surviving (win : BitVec 31) (ts : BitVec 32) (h : List HistEntry) : List HistEntry :=
  h.filter fun e => decide ((ts - e.ts).toInt ≤ (win.toNat : Int))

/-! ### Invariants -/

/-- A memory of `n` elements in canonical form. -/
abbrev memOk {w : Nat} (m : Mem w) (n : Nat) : Prop := Mem.wf m = true ∧ Mem.within m n = true

/-- Every buffer memory is canonical and lists only elements that exist (20_memory.md R70). -/
abbrev memoriesOk (s : State) : Prop :=
  memOk s.rsu.cw Config.nCwMax ∧ memOk s.rsu.era Config.nCwMax ∧ memOk s.fmu.grid Config.gridCells
    ∧ memOk s.fmu.tmpl Config.gridCells ∧ memOk s.fmu.fbuf Config.fbSize ∧ memOk s.apc.abuf Config.abSize
    ∧ memOk s.apc.ptmpl Config.ptSize

/-- Every register with a legal range narrower than its width holds a legal value (10_state.md R22, R30). -/
abbrev registersOk (s : State) : Prop :=
  25 ≤ s.rsu.rsRpct.toNat ∧ s.rsu.rsRpct.toNat ≤ 50 ∧ 2 ≤ s.rsu.ilvD.toNat ∧ s.rsu.ilvD.toNat ≤ 16
    ∧ 1 ≤ s.fmu.gridN.toNat ∧ 1 ≤ s.fmu.palBits.toNat ∧ s.apc.abLen.toNat ≤ 4096 ∧ s.apc.ptLen.toNat ≤ 1024
    ∧ s.rsu.cwLen.toNat ≤ 256

/-- The counts the frame marker unit reports are in range (10_state.md R38, R40). -/
abbrev countersOk (s : State) : Prop :=
  s.fmu.frRcnt.toNat ≤ 65025 ∧ s.fmu.frScore.toNat ≤ 65025 ∧ s.fmu.fbLen.toNat ≤ Config.fbSize

/-- The outcome codes the block produces (60_exceptions.md R310). -/
def producedCodes : List (BitVec 8) := [0x00, 0x01, 0x02, 0x03, 0x04, 0x05, 0x07, 0x10, 0x11, 0x12]

/-- Both histories hold at most 64 entries and no id twice (10_state.md R51), and no pair that could match is left unmatched
(44_channel_sync.md R275). -/
abbrev historiesOk (s : State) : Prop :=
  s.csu.vh.length ≤ 64 ∧ s.csu.ah.length ≤ 64 ∧ (s.csu.vh.map HistEntry.id).Nodup ∧ (s.csu.ah.map HistEntry.id).Nodup
    ∧ ∀ v ∈ s.csu.vh, ∀ a ∈ s.csu.ah, v.id = a.id → v.used = true ∨ a.used = true

/-- Every element of the valid part of `CW` and `ERA` has been written (20_memory.md R71, R79). -/
abbrev blockWritten (s : State) : Prop :=
  ∀ i, i < cwBound s → (Mem.get? s.rsu.cw i).isSome = true ∧ (Mem.get? s.rsu.era i).isSome = true

/-- What `CW_OK` says (10_state.md R30): the buffer holds a codeword of the block that `RS_LAST` names. -/
abbrev codewordOk (s : State) : Prop :=
  s.rsu.cwOk = true →
    s.rsu.cwLen.toNat = s.rsu.lastK.toNat + s.rsu.lastP.toNat ∧ s.rsu.cwLen.toNat ≤ 255
      ∧ isCodeword s.rsu.lastP.toNat (cwSymbols s s.rsu.cwLen.toNat) = true

/-! ### The decoder's rule -/

/-- `c` is a codeword within the bound `2*e + s <= P` of the received word (41_rs_fec.md R159). -/
def withinBound (p : Nat) (r : List Sym) (era : List Bool) (c : List Sym) : Prop :=
  c.length = r.length ∧ isCodeword p c = true ∧ 2 * errorCount r c era + erasureCount era ≤ p

/-- The number of positions in which two lists of symbols differ (41_rs_fec.md R158). -/
def differences (c d : List Sym) : Nat := ((List.zip c d).filter fun x => x.1 != x.2).length

/-- Every cell of the current grid has been written in the template (70_reset_and_hazards.md R353 step 2). -/
def templateWritten (s : State) : Prop := ∀ i, i < gridBound s → (Mem.get? s.fmu.tmpl i).isSome = true

end Sys2Proof.Safety
end

