-- ==== Sys2Proof/Certificates/Slice0/Obligations.lean ====
section
/-! DEFINITION. The statements for the provers. Each names in its docstring the rules of spec/ it formalises. `settled code ra rb t`
is the state `t` with the outcome code in `STATUS`, the response word emitted and the model's own counter advanced (log 2); no
rule says more of `STATUS` than that. -/

open Sys2Proof Sys2Proof.Machine Sys2Proof.Safety

/-! ### Words and commands -/

/-- 30_encoding.md R104, R105, R111: no bit of a command is lost between its word and the decoder. -/
def Obligations.DecodeInvertsEncode : Prop := ∀ i : Instr, decode (encode i) = .ok i

/-- 30_encoding.md R104, R105: a command has one word only; a word that decodes is the word of its command. -/
def Obligations.EncodeInvertsDecode : Prop := ∀ (w : Word64) (i : Instr), decode w = .ok i → encode i = w

/-- 30_encoding.md R104 to R107: the masks and matches accept exactly the words with an assigned opcode and no reserved bit, and
a refused word is refused for its opcode exactly when its opcode is reserved. -/
def Obligations.DecodeAcceptsExactlyTheLegalWords : Prop :=
  ∀ w : Word64, ((∃ i, decode w = .ok i) ↔ legalWord w = true)
    ∧ (decode w = .error .reservedOpcode ↔ opcodeAssigned w = false)

/-- 30_encoding.md R106, R107; 60_exceptions.md R318. -/
def Obligations.IllegalWordChangesOnlyStatus : Prop :=
  ∀ (w : Word64) (rest : List HostInput) (s : State), s.inputs = .command w :: rest → legalWord w = false →
    step s = .next (settled 0x10 0 0 { s with inputs := rest })

/-- 30_encoding.md R103, R104: a step takes the next word and runs the command it decodes to; nothing else happens around it. That
the waiting words are a list in the state is the model's choice (log 1). -/
def Obligations.StepRunsDecodedCommand : Prop :=
  (∀ (w : Word64) (i : Instr) (rest : List HostInput) (s : State), s.inputs = .command w :: rest → decode w = .ok i →
    step s = exec i { s with inputs := rest })
  ∧ ∀ (nbits w : Nat) (i : Instr) (s : State), decodeTableWord nbits w = some i → step (s.withFetchWord nbits w) = exec i s

/-- The example words of 30_encoding.md R111, 41_rs_fec.md R163, 42_frame_marker.md R202, 43_audio_correlator.md R250,
44_channel_sync.md R280 and R285, and 40_control_commands.md R131 decode to the commands they are written as. -/
def Obligations.ExampleWordsDecode : Prop :=
  decode 0x1100014100000000 = .ok (.cwPush 0x41 1) ∧ decode 0x1300000400000000 = .ok (.rsEnc 4)
  ∧ decode 0x220000050000000B = .ok (.tmplWr 5 1 3) ∧ decode 0x300000030000FFFD = .ok (.abWr 3 0xFFFD)
  ∧ decode 0x40000007000F4240 = .ok (.csObserveV 7 1000000) ∧ decode 0x4500000300000000 = .ok (.csHistRd 1 1 0)
  ∧ decode 0x0100001000000032 = .ok (.cfgWr 0x10 50) ∧ decode 0x1100020000000000 = .error .reservedBit

/-! ### The machine -/

/-- 70_reset_and_hazards.md R350, R351. With nothing presented the block stays as it is; a pulse of `rst_n` between two commands
leaves the state after reset. Both as steps of the model, and what happens to the waiting words and the counter, are the model's
choice (logs 3 and 4). -/
def Obligations.IdleAndResetPulseSteps : Prop :=
  ∀ s : State, (s.inputs = [] → step s = .next s)
    ∧ ∀ rest, s.inputs = .hardReset :: rest →
      step s = .next { State.reset with inputs := rest, draws := s.draws + 1 }

/-- From 10_state.md R55 with the column of R22 and 70_reset_and_hazards.md R350, R351: what reset leaves. Two clauses are the model's
choice: no response word stands (log 1; R350 gives `rsp_valid` = 0), and a cell that 20_memory.md R79 leaves unspecified
holds no value (log 2). -/
def Obligations.ResetLeavesTheseValues : Prop :=
  (∀ r ∈ resetTable, configRead (BitVec.ofNat 8 r.1) State.reset = some (BitVec.ofNat 32 r.2))
  ∧ State.reset.csu.offset = 0 ∧ State.reset.csu.rate = 0 ∧ State.reset.csu.noMatch = 0 ∧ State.reset.csu.mPrev = 0
  ∧ State.reset.csu.tPrev = 0 ∧ State.reset.csu.havePrev = false ∧ State.reset.csu.vh = [] ∧ State.reset.csu.ah = []
  ∧ State.reset.rsu.cwLen = 0 ∧ irq State.reset = false ∧ State.reset.rsp = none
  ∧ ∀ i, Mem.get? State.reset.rsu.cw i = none ∧ Mem.get? State.reset.rsu.era i = none
      ∧ Mem.get? State.reset.fmu.grid i = none ∧ Mem.get? State.reset.fmu.tmpl i = none
      ∧ Mem.get? State.reset.fmu.fbuf i = none ∧ Mem.get? State.reset.apc.abuf i = none
      ∧ Mem.get? State.reset.apc.ptmpl i = none

/-- 93_implementation_defined.md U3 and the end of its section 1: no command word leaves the block stuck. -/
def Obligations.StepAlwaysAnswersNext : Prop := ∀ s : State, ∃ t, step s = .next t

/-- 30_encoding.md R101, R103; 20_memory.md R89: `k` command words give `k` responses, in order, and the responses to the first
words do not depend on the words that follow. -/
def Obligations.ResponsesAnswerCommandsInOrder : Prop :=
  ∀ (ws vs : List Word64) (s : State),
    ∃ t, after ws.length { s with inputs := ws.map HostInput.command ++ vs.map HostInput.command } = some t
      ∧ t.inputs = vs.map HostInput.command
      ∧ (responses ws.length { s with inputs := ws.map HostInput.command }).length = ws.length
      ∧ responses (ws.length + vs.length) { s with inputs := ws.map HostInput.command ++ vs.map HostInput.command }
        = responses ws.length { s with inputs := ws.map HostInput.command } ++ responses vs.length t

/-- 60_exceptions.md R310, R311, R312; 30_encoding.md R101: a command ends with one response word, whose code is in `STATUS`
and is one of those R311, which the spec collects from the command rules, tabulates for the command. -/
def Obligations.CommandEndsWithOneTabulatedOutcome : Prop :=
  ∀ (i : Instr) (s t : State), exec i s = .next t →
    ∃ (st : BitVec 8) (ra : BitVec 24) (rb : BitVec 32), st ∈ outcomesOf i ∧ t.ctl.status = st ∧ t.rsp = some (st ++ ra ++ rb : Word64)
      ∧ t.inputs = s.inputs ∧ t.draws = s.draws + 1

/-- 20_memory.md R88, its first sentence: a read command changes `STATUS` and nothing else. -/
def Obligations.ReadsChangeOnlyStatus : Prop :=
  ∀ (i : Instr) (s t : State), isRead i = true → exec i s = .next t → ∃ st ra rb, t = settled st ra rb s

/-- 70_reset_and_hazards.md R361: a command of one unit leaves the other units alone, and what it answers and does depends on its
own unit, the control state and (for unwritten cells) the model's counter alone. -/
def Obligations.UnitsShareOnlyControl : Prop :=
  ∀ (i : Instr) (s t : State), unitOf i ≠ .ctl → exec i s = .next t →
    t.ctl.evtEn = s.ctl.evtEn
    ∧ (unitOf i ≠ .rsu → t.rsu = s.rsu) ∧ (unitOf i ≠ .fmu → t.fmu = s.fmu)
    ∧ (unitOf i ≠ .apc → t.apc = s.apc) ∧ (unitOf i ≠ .csu → t.csu = s.csu)
    ∧ ∀ s' t' : State, exec i s' = .next t' → s'.ctl = s.ctl → s'.draws = s.draws →
        (unitOf i = .rsu → s'.rsu = s.rsu → t'.rsp = t.rsp ∧ t'.ctl = t.ctl ∧ t'.rsu = t.rsu)
        ∧ (unitOf i = .fmu → s'.fmu = s.fmu → t'.rsp = t.rsp ∧ t'.ctl = t.ctl ∧ t'.fmu = t.fmu)
        ∧ (unitOf i = .apc → s'.apc = s.apc → t'.rsp = t.rsp ∧ t'.ctl = t.ctl ∧ t'.apc = t.apc)
        ∧ (unitOf i = .csu → s'.csu = s.csu → t'.rsp = t.rsp ∧ t'.ctl = t.ctl ∧ t'.csu = t.csu)

/-- 60_exceptions.md R319; 10_state.md R26: what sets and what clears each event bit, among commands. `RA.DROPPED` is bit 34 of
the response word. -/
def Obligations.EventsChangeOnlyAsTabulated : Prop :=
  ∀ (i : Instr) (s t : State), exec i s = .next t →
    (resyncReq t = true ↔ (resyncReq s = true ∧ i ≠ .csResync ∧ i ≠ .softReset)
      ∨ ∃ id ts, i = .csObserveV id ts ∧ t.ctl.status = 0x07)
    ∧ (histOvfV t = true ↔ (histOvfV s = true ∧ i ≠ .softReset ∧ ∀ m, i = .evtClr m → m.getLsbD 0 = false)
      ∨ ∃ id ts, i = .csObserveV id ts ∧ t.rsp.map (·.getLsbD 34) = some true)
    ∧ (histOvfA t = true ↔ (histOvfA s = true ∧ i ≠ .softReset ∧ ∀ m, i = .evtClr m → m.getLsbD 1 = false)
      ∨ ∃ id ts, i = .csObserveA id ts ∧ t.rsp.map (·.getLsbD 34) = some true)

/-- 60_exceptions.md R320; 10_state.md R27. -/
def Obligations.InterruptLineIsAnEnabledEvent : Prop :=
  ∀ s : State, irq s = true ↔ ∃ i < 3, s.ctl.evt.getLsbD i = true ∧ s.ctl.evtEn.getLsbD i = true

/-! ### Control commands -/

/-- 40_control_commands.md R130 and R133, 41_rs_fec.md R160, 44_channel_sync.md R284: the four commands without operands whose
effect is fixed. -/
def Obligations.FixedEffectCommands : Prop :=
  (hasWord .nop 0x00 0 0 ∧ hasWord .softReset 0x03 0 0 ∧ hasWord .cwClr 0x10 0 0 ∧ hasWord .csResync 0x44 0 0)
  ∧ ∀ s : State,
    exec .nop s = .next (settled 0x00 0 0 s)
    ∧ exec .softReset s = .next (settled 0x00 0 0 { s with
        ctl := State.reset.ctl
        rsu := { State.reset.rsu with cw := s.rsu.cw, era := s.rsu.era }
        fmu := { State.reset.fmu with grid := s.fmu.grid, tmpl := s.fmu.tmpl, fbuf := s.fmu.fbuf }
        apc := { State.reset.apc with abuf := s.apc.abuf, ptmpl := s.apc.ptmpl }
        csu := State.reset.csu })
    ∧ exec .cwClr s = .next (settled 0x00 0 0 { s with rsu := { s.rsu with cwLen := 0, cwOk := false, ilv := false } })
    ∧ ∃ evt : BitVec 3, (∀ i < 3, evt.getLsbD i = (decide (i ≠ 0) && s.ctl.evt.getLsbD i))
      ∧ exec .csResync s = .next (settled 0x00 0 0 { s with
          ctl := { s.ctl with evt := evt }
          csu := { s.csu with vh := [], ah := [], noMatch := 0, havePrev := false } })

/-- 40_control_commands.md R131 with the map of 10_state.md R22. A legal write changes the register it names and no other, and no
buffer. -/
def Obligations.ConfigWriteFollowsTheMap : Prop :=
  ∀ (reg : BitVec 8) (val : BitVec 32) (s : State),
    hasWord (.cfgWr reg val) 0x01 (reg.setWidth 24) val
    ∧ ((reg.toNat ∈ roIndices ∨ ∀ r ∈ registerTable s, r.1 ≠ reg.toNat) →
        exec (.cfgWr reg val) s = .next (settled 0x11 0 0 s))
    ∧ ∀ lo hi, (reg.toNat, lo, hi) ∈ rwTable →
        (val.toNat < lo ∨ hi < val.toNat → exec (.cfgWr reg val) s = .next (settled 0x12 0 0 s))
        ∧ (lo ≤ val.toNat → val.toNat ≤ hi →
            ∃ t, exec (.cfgWr reg val) s = .next (settled 0x00 0 0 t) ∧ configRead reg t = some val
              ∧ (∀ q, q ≠ reg → configRead q t = configRead q s)
              ∧ sameBuffers s t ∧ t.rsp = s.rsp ∧ t.draws = s.draws)

/-- 40_control_commands.md R132 with the fields of 10_state.md R24, R25, R30, R31, R47, R51. The two bounds are those of
`StepKeepsTheHistories`. -/
def Obligations.ConfigReadGivesTheTabulatedValue : Prop :=
  ∀ (reg : BitVec 8) (s : State), s.csu.vh.length ≤ 64 → s.csu.ah.length ≤ 64 →
    hasWord (.cfgRd reg) 0x02 (reg.setWidth 24) 0
    ∧ ((∀ r ∈ registerTable s, r.1 ≠ reg.toNat) → exec (.cfgRd reg) s = .next (settled 0x11 0 0 s))
    ∧ ∀ v, (reg.toNat, v) ∈ registerTable s →
        v < 2 ^ 32 ∧ exec (.cfgRd reg) s = .next (settled 0x00 0 (BitVec.ofNat 32 v) s)

/-- 40_control_commands.md R134. -/
def Obligations.EventClearMasksTheOverflowBits : Prop :=
  ∀ (mask : BitVec 2) (s : State),
    hasWord (.evtClr mask) 0x04 0 (BitVec.ofNat 32 (2 * mask.toNat))
    ∧ ∃ evt : BitVec 3, evt.getLsbD 0 = s.ctl.evt.getLsbD 0
      ∧ evt.getLsbD 1 = (s.ctl.evt.getLsbD 1 && !mask.getLsbD 0)
      ∧ evt.getLsbD 2 = (s.ctl.evt.getLsbD 2 && !mask.getLsbD 1)
      ∧ exec (.evtClr mask) s
        = .next (settled 0x00 0 (BitVec.ofNat 32 evt.toNat) { s with ctl := { s.ctl with evt := evt } })

/-! ### Reed-Solomon unit -/

/-- 41_rs_fec.md R161. -/
def Obligations.PushAppendsOneSymbol : Prop :=
  ∀ (sym : BitVec 8) (era : BitVec 1) (s : State),
    hasWord (.cwPush sym era) 0x11 (BitVec.ofNat 24 (sym.toNat + 256 * era.toNat)) 0
    ∧ (s.rsu.ilv = true → exec (.cwPush sym era) s = .next (settled 0x12 0 0 s))
    ∧ (s.rsu.ilv = false → 255 ≤ s.rsu.cwLen.toNat → exec (.cwPush sym era) s
        = .next (settled 0x01 0 0 { s with rsu := { s.rsu with cwLen := 256, cwOk := false } }))
    ∧ (s.rsu.ilv = false → s.rsu.cwLen.toNat < 255 →
        ∃ cw marks, storedOne s.rsu.cw cw s.rsu.cwLen.toNat sym ∧ storedOne s.rsu.era marks s.rsu.cwLen.toNat era
          ∧ exec (.cwPush sym era) s = .next (settled 0x00 0 (BitVec.ofNat 32 (s.rsu.cwLen.toNat + 1))
              { s with rsu := { s.rsu with
                  cw := cw, era := marks, cwLen := BitVec.ofNat 9 (s.rsu.cwLen.toNat + 1), cwOk := false } }))

/-- 41_rs_fec.md R162. That every cell below the bound has been written is the invariant of `StepKeepsTheCodewordBuffer`. -/
def Obligations.CodewordReadGivesSymbolAndMark : Prop :=
  ∀ (idx : BitVec 8) (s : State), blockWritten s →
    hasWord (.cwRd idx) 0x12 (idx.setWidth 24) 0
    ∧ (min s.rsu.cwLen.toNat 255 ≤ idx.toNat → exec (.cwRd idx) s = .next (settled 0x11 0 0 s))
    ∧ (idx.toNat < min s.rsu.cwLen.toNat 255 →
        ∃ sym mark, Mem.get? s.rsu.cw idx.toNat = some sym ∧ Mem.get? s.rsu.era idx.toNat = some mark
          ∧ exec (.cwRd idx) s = .next (settled 0x00 0 (BitVec.ofNat 32 (sym.toNat + 256 * mark.toNat)) s))

/-- 41_rs_fec.md R163. What the parity symbols are is said by `EncoderGivesTheSystematicCodeword`. -/
def Obligations.EncodeAppendsTheParitySymbols : Prop :=
  ∀ (k : BitVec 8) (s : State), blockWritten s →
    let p := parityCount s.rsu.rsRpct.toNat k.toNat
    let n := k.toNat + p
    hasWord (.rsEnc k) 0x13 (k.setWidth 24) 0
    ∧ (s.rsu.ilv = true → exec (.rsEnc k) s = .next (settled 0x12 0 0 s))
    ∧ (s.rsu.ilv = false → k = 0 ∨ 255 < n ∨ s.rsu.cwLen.toNat ≠ k.toNat → exec (.rsEnc k) s
        = .next (settled 0x01 0 0 { s with rsu := { s.rsu with cwLen := 0, cwOk := false } }))
    ∧ (s.rsu.ilv = false → k ≠ 0 → n ≤ 255 → s.rsu.cwLen.toNat = k.toNat →
        ∃ (d : List Sym) (cw : Mem 8) (era : Mem 1), d.length = k.toNat ∧ (∀ j < k.toNat, Mem.get? s.rsu.cw j = d[j]?)
          ∧ storedRun s.rsu.cw cw k.toNat (paritySymbols p d) ∧ storedRun s.rsu.era era 0 (List.replicate n 0)
          ∧ exec (.rsEnc k) s = .next (settled 0x00 (BitVec.ofNat 24 p) (BitVec.ofNat 32 n)
              { s with rsu := { s.rsu with
                  cw := cw, era := era, cwLen := BitVec.ofNat 9 n, cwOk := true, lastP := BitVec.ofNat 8 p, lastK := k } }))

/-- 41_rs_fec.md R166. What `decodeBlock` is, is said by `DecoderComputesTheBoundedCodeword` (R159). -/
def Obligations.DecodeCorrectsTheBlockInPlace : Prop :=
  ∀ (k : BitVec 8) (s : State), blockWritten s →
    let p := parityCount s.rsu.rsRpct.toNat k.toNat
    let n := k.toNat + p
    hasWord (.rsDec k) 0x14 (k.setWidth 24) 0
    ∧ (s.rsu.ilv = true → exec (.rsDec k) s = .next (settled 0x12 0 0 s))
    ∧ (s.rsu.ilv = false → k = 0 ∨ 255 < n ∨ s.rsu.cwLen.toNat ≠ n → exec (.rsDec k) s
        = .next (settled 0x01 0 0 { s with rsu := { s.rsu with cwLen := 0, cwOk := false } }))
    ∧ (s.rsu.ilv = false → k ≠ 0 → n ≤ 255 → s.rsu.cwLen.toNat = n →
        ∃ (r : List Sym) (marks : List Bool), r.length = n ∧ marks.length = n
          ∧ (∀ j < n, Mem.get? s.rsu.cw j = r[j]? ∧ Mem.get? s.rsu.era j = (marks[j]?).map BitVec.ofBool)
          ∧ (decodeBlock p r marks = none → exec (.rsDec k) s = .next (settled 0x02 0 0
              { s with rsu := { s.rsu with cwLen := 0, cwOk := false, lastP := BitVec.ofNat 8 p, lastK := k } }))
          ∧ ∀ c e, decodeBlock p r marks = some (c, e) →
              ∃ cw era, storedRun s.rsu.cw cw 0 c ∧ storedRun s.rsu.era era 0 (List.replicate n 0)
                ∧ exec (.rsDec k) s = .next (settled 0x00 (BitVec.ofNat 24 e) (BitVec.ofNat 32 (erasureCount marks))
                    { s with rsu := { s.rsu with
                        cw := cw, era := era, cwOk := true, errCnt := BitVec.ofNat 8 e,
                        eraCnt := BitVec.ofNat 8 (erasureCount marks), lastP := BitVec.ofNat 8 p, lastK := k } }))

/-- 41_rs_fec.md R172, R171. The premises are the invariants of `StepKeepsTheCodewordBuffer` and
`StepKeepsMemoriesAndRegisters`. -/
def Obligations.SplitPermutesIntoSlices : Prop :=
  ∀ (k : BitVec 8) (s : State), blockWritten s → registersOk s →
    let p := parityCount s.rsu.rsRpct.toNat k.toNat
    let n := k.toNat + p
    let d := s.rsu.ilvD.toNat
    hasWord (.ilvSplit k) 0x15 (k.setWidth 24) 0
    ∧ (s.rsu.ilv = true → exec (.ilvSplit k) s = .next (settled 0x12 0 0 s))
    ∧ (s.rsu.ilv = false → k = 0 ∨ 255 < n ∨ s.rsu.cwLen.toNat ≠ n → exec (.ilvSplit k) s
        = .next (settled 0x01 0 0 { s with rsu := { s.rsu with cwLen := 0, cwOk := false } }))
    ∧ (s.rsu.ilv = false → k ≠ 0 → n ≤ 255 → s.rsu.cwLen.toNat = n → p < cdiv n d →
        exec (.ilvSplit k) s = .next (settled 0x12 0 0 s))
    ∧ (s.rsu.ilv = false → k ≠ 0 → n ≤ 255 → s.rsu.cwLen.toNat = n → cdiv n d ≤ p →
        ∃ cw era, (∀ j < n, Mem.get? cw (sigma n d j) = Mem.get? s.rsu.cw j
              ∧ Mem.get? era (sigma n d j) = Mem.get? s.rsu.era j)
          ∧ (∀ a, n ≤ a → Mem.get? cw a = Mem.get? s.rsu.cw a ∧ Mem.get? era a = Mem.get? s.rsu.era a)
          ∧ exec (.ilvSplit k) s = .next (settled 0x00 (BitVec.ofNat 24 d) (BitVec.ofNat 32 (cdiv n d))
              { s with rsu := { s.rsu with cw := cw, era := era, ilv := true, cwOk := false } }))

/-- 41_rs_fec.md R173, R171. The premises are the invariants of `StepKeepsTheCodewordBuffer` and
`StepKeepsMemoriesAndRegisters`. -/
def Obligations.MergePermutesBackAndMarksLostSlices : Prop :=
  ∀ (k : BitVec 8) (lost : BitVec 16) (s : State), blockWritten s → registersOk s →
    let p := parityCount s.rsu.rsRpct.toNat k.toNat
    let n := k.toNat + p
    let d := s.rsu.ilvD.toNat
    hasWord (.ilvMerge k lost) 0x16 (k.setWidth 24) (lost.setWidth 32)
    ∧ (k = 0 ∨ 255 < n ∨ s.rsu.cwLen.toNat ≠ n → exec (.ilvMerge k lost) s
        = .next (settled 0x01 0 0 { s with rsu := { s.rsu with cwLen := 0, cwOk := false, ilv := false } }))
    ∧ (k ≠ 0 → n ≤ 255 → s.rsu.cwLen.toNat = n → p < cdiv n d ∨ 2 ^ d ≤ lost.toNat →
        exec (.ilvMerge k lost) s = .next (settled 0x12 0 0 s))
    ∧ (k ≠ 0 → n ≤ 255 → s.rsu.cwLen.toNat = n → cdiv n d ≤ p → lost.toNat < 2 ^ d →
        ∃ cw era, (∀ j < n, Mem.get? cw j = Mem.get? s.rsu.cw (sigma n d j)
              ∧ Mem.get? era j
                = (Mem.get? s.rsu.era (sigma n d j)).map fun e => e ||| BitVec.ofBool (lost.getLsbD (j % d)))
          ∧ (∀ a, n ≤ a → Mem.get? cw a = Mem.get? s.rsu.cw a ∧ Mem.get? era a = Mem.get? s.rsu.era a)
          ∧ exec (.ilvMerge k lost) s = .next (settled 0x00 0
              (BitVec.ofNat 32 ((List.range n).filter fun j => Mem.get? era j == some 1).length)
              { s with rsu := { s.rsu with cw := cw, era := era, ilv := false, cwOk := false } }))

/-! ### Frame marker unit -/

/-- 42_frame_marker.md R200, R202. -/
def Obligations.GridAndTemplateWritesStoreOneModule : Prop :=
  ∀ (idx : BitVec 16) (val : BitVec 3) (resv : BitVec 1) (s : State),
    hasWord (.gridWr idx val) 0x20 (idx.setWidth 24) (val.setWidth 32)
    ∧ hasWord (.tmplWr idx resv val) 0x22 (idx.setWidth 24) (BitVec.ofNat 32 (val.toNat + 8 * resv.toNat))
    ∧ (s.fmu.gridN.toNat * s.fmu.gridN.toNat ≤ idx.toNat →
        exec (.gridWr idx val) s = .next (settled 0x11 0 0 s) ∧ exec (.tmplWr idx resv val) s = .next (settled 0x11 0 0 s))
    ∧ (idx.toNat < s.fmu.gridN.toNat * s.fmu.gridN.toNat → 2 ^ s.fmu.palBits.toNat ≤ val.toNat →
        exec (.gridWr idx val) s = .next (settled 0x12 0 0 s) ∧ exec (.tmplWr idx resv val) s = .next (settled 0x12 0 0 s))
    ∧ (idx.toNat < s.fmu.gridN.toNat * s.fmu.gridN.toNat → val.toNat < 2 ^ s.fmu.palBits.toNat →
        (∃ grid, storedOne s.fmu.grid grid idx.toNat val
          ∧ exec (.gridWr idx val) s = .next (settled 0x00 0 0 { s with fmu := { s.fmu with grid := grid } }))
        ∧ ∃ tmpl, storedOne s.fmu.tmpl tmpl idx.toNat (BitVec.ofNat 4 (val.toNat + 8 * resv.toNat))
          ∧ exec (.tmplWr idx resv val) s = .next (settled 0x00 0 0 { s with fmu := { s.fmu with tmpl := tmpl } }))

/-- 42_frame_marker.md R204; 43_audio_correlator.md R250, R252. -/
def Obligations.ByteAndSampleWritesStoreOneElement : Prop :=
  ∀ (idx : BitVec 16) (byte : BitVec 8) (val : BitVec 16) (s : State),
    hasWord (.fbWr idx byte) 0x24 (idx.setWidth 24) (byte.setWidth 32)
    ∧ hasWord (.abWr idx val) 0x30 (idx.setWidth 24) (val.setWidth 32)
    ∧ hasWord (.ptWr idx val) 0x32 (idx.setWidth 24) (val.setWidth 32)
    ∧ (24384 ≤ idx.toNat → exec (.fbWr idx byte) s = .next (settled 0x11 0 0 s))
    ∧ (4096 ≤ idx.toNat → exec (.abWr idx val) s = .next (settled 0x11 0 0 s))
    ∧ (1024 ≤ idx.toNat → exec (.ptWr idx val) s = .next (settled 0x11 0 0 s))
    ∧ (idx.toNat < 24384 → ∃ m, storedOne s.fmu.fbuf m idx.toNat byte
        ∧ exec (.fbWr idx byte) s = .next (settled 0x00 0 0 { s with fmu := { s.fmu with fbuf := m } }))
    ∧ (idx.toNat < 4096 → ∃ m, storedOne s.apc.abuf m idx.toNat val
        ∧ exec (.abWr idx val) s = .next (settled 0x00 0 0 { s with apc := { s.apc with abuf := m } }))
    ∧ (idx.toNat < 1024 → ∃ m, storedOne s.apc.ptmpl m idx.toNat val
        ∧ exec (.ptWr idx val) s = .next (settled 0x00 0 0 { s with apc := { s.apc with ptmpl := m } }))

/-- 42_frame_marker.md R201, R203, R205; 43_audio_correlator.md R251, R253. A cell something has written reads as it was
written; of a cell never written nothing is said (20_memory.md R79). -/
def Obligations.BufferReadsGiveTheStoredElement : Prop :=
  ∀ (idx : BitVec 16) (s : State),
    (hasWord (.gridRd idx) 0x21 (idx.setWidth 24) 0 ∧ hasWord (.tmplRd idx) 0x23 (idx.setWidth 24) 0
      ∧ hasWord (.fbRd idx) 0x25 (idx.setWidth 24) 0 ∧ hasWord (.abRd idx) 0x31 (idx.setWidth 24) 0
      ∧ hasWord (.ptRd idx) 0x33 (idx.setWidth 24) 0)
    ∧ (s.fmu.gridN.toNat * s.fmu.gridN.toNat ≤ idx.toNat →
        exec (.gridRd idx) s = .next (settled 0x11 0 0 s) ∧ exec (.tmplRd idx) s = .next (settled 0x11 0 0 s))
    ∧ (24384 ≤ idx.toNat → exec (.fbRd idx) s = .next (settled 0x11 0 0 s))
    ∧ (4096 ≤ idx.toNat → exec (.abRd idx) s = .next (settled 0x11 0 0 s))
    ∧ (1024 ≤ idx.toNat → exec (.ptRd idx) s = .next (settled 0x11 0 0 s))
    ∧ (idx.toNat < s.fmu.gridN.toNat * s.fmu.gridN.toNat →
        (∃ v : BitVec 3, (∀ x, Mem.get? s.fmu.grid idx.toNat = some x → v = x)
          ∧ exec (.gridRd idx) s = .next (settled 0x00 0 (v.setWidth 32) s))
        ∧ ∃ v : BitVec 4, (∀ x, Mem.get? s.fmu.tmpl idx.toNat = some x → v = x)
          ∧ exec (.tmplRd idx) s = .next (settled 0x00 0 (v.setWidth 32) s))
    ∧ (idx.toNat < 24384 → ∃ v : BitVec 8, (∀ x, Mem.get? s.fmu.fbuf idx.toNat = some x → v = x)
        ∧ exec (.fbRd idx) s = .next (settled 0x00 0 (v.setWidth 32) s))
    ∧ (idx.toNat < 4096 → ∃ v : BitVec 16, (∀ x, Mem.get? s.apc.abuf idx.toNat = some x → v = x)
        ∧ exec (.abRd idx) s = .next (settled 0x00 0 (v.setWidth 32) s))
    ∧ (idx.toNat < 1024 → ∃ v : BitVec 16, (∀ x, Mem.get? s.apc.ptmpl idx.toNat = some x → v = x)
        ∧ exec (.ptRd idx) s = .next (settled 0x00 0 (v.setWidth 32) s))

/-- From 42_frame_marker.md R213 with R206, R210, R211. That an unwritten cell reads one value
throughout a command is the model's choice (log 2). -/
def Obligations.DetectScoresTheReservedModules : Prop :=
  ∀ s : State,
    let ra := BitVec.ofNat 24 (reservedCells s).length
    let rb := BitVec.ofNat 32 (finderScore s)
    let t := { s with fmu := { s.fmu with
      frRcnt := BitVec.ofNat 16 (reservedCells s).length, frScore := BitVec.ofNat 16 (finderScore s) } }
    hasWord .frDetect 0x26 0 0
    ∧ (¬ (templateFits s ∧ gridFits s) → exec .frDetect s = .next (settled 0x12 0 0 s))
    ∧ (templateFits s → gridFits s → ¬ finderDetected s → exec .frDetect s = .next (settled 0x03 ra rb t))
    ∧ (templateFits s → gridFits s → finderDetected s → exec .frDetect s = .next (settled 0x00 ra rb t))

/-- From 42_frame_marker.md R214, R216 to R220, with R206 to R211: the stages in order, each failing as its rule says, and the
frame delivered in the last. That an unwritten cell reads one value
throughout a command is the model's choice (log 2). -/
def Obligations.ParseRunsTheStagesInOrder : Prop :=
  ∀ s : State,
    let bits := gridSequence s
    let fid := BitVec.ofNat 24 (field bits 0 24)
    let tot := BitVec.ofNat 16 (field bits 24 16)
    let len := BitVec.ofNat 16 (field bits 40 16)
    let ck := BitVec.ofNat 16 (field bits 56 16)
    let want := crc16 (bytesBe fid.toNat 3 ++ bytesBe tot.toNat 2 ++ bytesBe len.toNat 2)
    let avail := (capacity s - 72) / 8
    let t := { s with fmu := { s.fmu with
      frRcnt := BitVec.ofNat 16 (reservedCells s).length, frScore := BitVec.ofNat 16 (finderScore s) } }
    hasWord .frParse 0x27 0 0
    ∧ (¬ (templateFits s ∧ gridFits s) ∨ capacity s < 72 → exec .frParse s = .next (settled 0x12 0 0 s))
    ∧ (templateFits s → gridFits s → 72 ≤ capacity s →
      (¬ finderDetected s → exec .frParse s
        = .next (settled 0x03 (BitVec.ofNat 24 (reservedCells s).length) (BitVec.ofNat 32 (finderScore s))
            { t with fmu := { t.fmu with parseState := .detectingFinder } }))
      ∧ (finderDetected s → want ≠ ck → exec .frParse s
        = .next (settled 0x04 0 (want ++ ck) { t with fmu := { t.fmu with parseState := .validatingChecksum } }))
      ∧ (finderDetected s → want = ck → avail < len.toNat → exec .frParse s
        = .next (settled 0x01 0 (BitVec.ofNat 32 avail) { t with fmu := { t.fmu with parseState := .extractingPayload } }))
      ∧ (finderDetected s → want = ck → len.toNat ≤ avail →
          ∃ fbuf, storedRun s.fmu.fbuf fbuf 0
              ((List.range avail).map fun i => BitVec.ofNat 8 (field bits (72 + 8 * i) 8))
            ∧ exec .frParse s = .next (settled 0x00 fid (tot ++ len) { t with fmu := { t.fmu with
                parseState := .done, hdrFrameId := fid, hdrTotal := tot, hdrPaylen := len, hdrCksum := ck,
                fbuf := fbuf, fbLen := BitVec.ofNat 16 avail } })))

/-- From 42_frame_marker.md R222 with R206 to R209: the reserved modules take the template's values, the payload-carrying ones the
header, the bytes and zeros, and no cell outside the grid changes. That an unwritten cell reads one value
throughout a command is the model's choice (log 2). -/
def Obligations.FormatLaysOutTheFrame : Prop :=
  ∀ s : State,
    let f := s.fmu
    let b := f.palBits.toNat
    let body := (List.range (f.hdrPaylen.toNat + f.frParlen.toNat)).map (readFbuf s)
    let need := 72 + 8 * (f.hdrPaylen.toNat + f.frParlen.toNat)
    let hb := bytesBe f.hdrFrameId.toNat 3 ++ bytesBe f.hdrTotal.toNat 2 ++ bytesBe f.hdrPaylen.toNat 2
    let ck := crc16 hb
    let bits := bitsOfBytes hb ++ bitsBe ck.toNat 16 ++ bitsOfBytes body
      ++ List.replicate (capacity s - need) false
    hasWord .frFormat 0x28 0 0
    ∧ (¬ templateFits s → exec .frFormat s = .next (settled 0x12 0 0 s))
    ∧ (templateFits s → capacity s < need →
        exec .frFormat s = .next (settled 0x12 0 (BitVec.ofNat 32 ((capacity s - 72) / 8)) s))
    ∧ (templateFits s → need ≤ capacity s →
        ∃ grid, (∀ i ∈ reservedCells s, Mem.get? grid i = some (BitVec.ofNat 3 ((readTmpl s i).toNat % 8)))
          ∧ (∀ j i, (payloadCells s)[j]? = some i → Mem.get? grid i = some (BitVec.ofNat 3 (field bits (j * b) b)))
          ∧ (∀ a, f.gridN.toNat ^ 2 ≤ a → Mem.get? grid a = Mem.get? f.grid a)
          ∧ exec .frFormat s = .next (settled 0x00 (BitVec.ofNat 24 (cdiv need b)) (ck.setWidth 32)
              { s with fmu := { f with
                  grid := grid, hdrCksum := ck, frRcnt := BitVec.ofNat 16 (reservedCells s).length } }))

/-! ### Audio preamble correlator -/

/-- From 43_audio_correlator.md R257 with R254, R255. That an unwritten cell reads one value throughout a command, so also at
several lags, is the model's choice (log 2). -/
def Obligations.CorrelatorReportsTheFirstPeak : Prop :=
  ∀ s : State,
    let t := s.apc.ptLen.toNat
    let a := s.apc.abLen.toNat
    let c := fun l => ∑ i ∈ Finset.range t, (readAbuf s (l + i)).toInt * (readPtmpl s i).toInt
    let thr := (s.apc.auThreshHi ++ s.apc.auThreshLo : BitVec 48).toInt
    hasWord .auCorr 0x34 0 0
    ∧ (t = 0 → exec .auCorr s = .next (settled 0x12 0 0 s))
    ∧ (t ≠ 0 → a < t → exec .auCorr s = .next (settled 0x05 0 0 s))
    ∧ ∀ lag, t ≠ 0 → t ≤ a → lag ≤ a - t → (∀ l ≤ a - t, c l ≤ c lag) → (∀ l < lag, c l < c lag) →
        let u := { s with apc := { s.apc with
          auPeakLo := (BitVec.ofInt 48 (c lag)).extractLsb' 0 32
          auPeakHi := (BitVec.ofInt 48 (c lag)).extractLsb' 32 16
          auLag := BitVec.ofNat 12 lag } }
        (c lag < thr → exec .auCorr s = .next (settled 0x05 (BitVec.ofNat 24 lag) (BitVec.ofInt 32 (c lag)) u))
        ∧ (thr ≤ c lag → exec .auCorr s = .next (settled 0x00 (BitVec.ofNat 24 lag) (BitVec.ofInt 32 (c lag)) u))

/-! ### Channel synchroniser -/

/-- 44_channel_sync.md R280 with R272, R274 to R276, R279. The premise is part of the invariant of `StepKeepsTheHistories`.
What the two updates compute is said by `EstimatorAveragesWithFloor`. -/
def Obligations.VisualObservationFollowsItsRule : Prop :=
  ∀ (id : BitVec 24) (ts : BitVec 32) (s : State), (s.csu.ah.map HistEntry.id).Nodup →
    let vh := surviving s.csu.histWin ts s.csu.vh
    let ah := surviving s.csu.histWin ts s.csu.ah
    let kept := if vh.length = 64 then vh.tail else vh
    let evt := if vh.length = 64 then s.ctl.evt ||| 0b010#3 else s.ctl.evt
    let drop : BitVec 24 := if vh.length = 64 then 0b100 else 0
    let n := min 255 (s.csu.noMatch.toNat + 1)
    hasWord (.csObserveV id ts) 0x40 id ts
    ∧ (s.ctl.evt.getLsbD 0 = true → exec (.csObserveV id ts) s = .next (settled 0x07 0 0 s))
    ∧ (s.ctl.evt.getLsbD 0 = false → (∃ e ∈ vh, e.id = id) → exec (.csObserveV id ts) s
        = .next (settled 0x00 0b010 0 { s with csu := { s.csu with vh := vh, ah := ah } }))
    ∧ (s.ctl.evt.getLsbD 0 = false → (∀ e ∈ vh, e.id ≠ id) →
        (∀ a ∈ ah, a.id = id → a.used = false → exec (.csObserveV id ts) s
          = .next (settled 0x00 (drop ||| 1) (a.ts - ts) { s with
              ctl := { s.ctl with evt := evt }
              csu := { s.csu with
                vh := kept ++ [{ id := id, ts := ts, used := true }]
                ah := ah.map fun e => if e = a then { e with used := true } else e
                offset := offsetUpdate s.csu.offset (a.ts - ts).toInt
                rate := rateUpdate s.csu (a.ts - ts).toInt ts
                mPrev := a.ts - ts, tPrev := ts, havePrev := true, noMatch := 0 } }))
        ∧ ((∀ a ∈ ah, a.id = id → a.used = true) →
            let t : State := { s with csu := { s.csu with
              vh := kept ++ [{ id := id, ts := ts, used := false }], ah := ah, noMatch := BitVec.ofNat 8 n } }
            (s.csu.resyncN ≠ 0 → s.csu.resyncN.toNat ≤ n → exec (.csObserveV id ts) s
              = .next (settled 0x07 drop (BitVec.ofNat 32 n) { t with ctl := { s.ctl with evt := evt ||| 0b001#3 } }))
            ∧ (s.csu.resyncN = 0 ∨ n < s.csu.resyncN.toNat → exec (.csObserveV id ts) s
              = .next (settled 0x00 drop 0 { t with ctl := { s.ctl with evt := evt } }))))

/-- 44_channel_sync.md R281 with R272, R274 to R276, R279. The premise is part of the invariant of `StepKeepsTheHistories`. -/
def Obligations.AudioObservationFollowsItsRule : Prop :=
  ∀ (id : BitVec 24) (ts : BitVec 32) (s : State), (s.csu.vh.map HistEntry.id).Nodup →
    let vh := surviving s.csu.histWin ts s.csu.vh
    let ah := surviving s.csu.histWin ts s.csu.ah
    let kept := if ah.length = 64 then ah.tail else ah
    let evt := if ah.length = 64 then s.ctl.evt ||| 0b100#3 else s.ctl.evt
    let drop : BitVec 24 := if ah.length = 64 then 0b100 else 0
    hasWord (.csObserveA id ts) 0x41 id ts
    ∧ (s.ctl.evt.getLsbD 0 = true → exec (.csObserveA id ts) s = .next (settled 0x07 0 0 s))
    ∧ (s.ctl.evt.getLsbD 0 = false → (∃ e ∈ ah, e.id = id) → exec (.csObserveA id ts) s
        = .next (settled 0x00 0b010 0 { s with csu := { s.csu with vh := vh, ah := ah } }))
    ∧ (s.ctl.evt.getLsbD 0 = false → (∀ e ∈ ah, e.id ≠ id) →
        (∀ v ∈ vh, v.id = id → v.used = false → exec (.csObserveA id ts) s
          = .next (settled 0x00 (drop ||| 1) (ts - v.ts) { s with
              ctl := { s.ctl with evt := evt }
              csu := { s.csu with
                vh := vh.map fun e => if e = v then { e with used := true } else e
                ah := kept ++ [{ id := id, ts := ts, used := true }]
                offset := offsetUpdate s.csu.offset (ts - v.ts).toInt
                rate := rateUpdate s.csu (ts - v.ts).toInt v.ts
                mPrev := ts - v.ts, tPrev := v.ts, havePrev := true, noMatch := 0 } }))
        ∧ ((∀ v ∈ vh, v.id = id → v.used = true) → exec (.csObserveA id ts) s
          = .next (settled 0x00 drop 0 { s with
              ctl := { s.ctl with evt := evt }
              csu := { s.csu with vh := vh, ah := kept ++ [{ id := id, ts := ts, used := false }] } })))

/-- 44_channel_sync.md R282, R283. -/
def Obligations.DriftAndAlignReadTheEstimate : Prop :=
  (∀ (sel : BitVec 2) (s : State),
    hasWord (.csDrift sel) 0x42 (sel.setWidth 24) 0
    ∧ (sel = 0 → exec (.csDrift sel) s = .next (settled 0x00
        (BitVec.ofInt 24 (fdiv s.csu.rate.toInt 256)) (BitVec.ofInt 32 (fdiv s.csu.offset.toInt 65536)) s))
    ∧ (sel = 1 → exec (.csDrift sel) s = .next (settled 0x00 0 (BitVec.ofNat 32 (s.csu.offset.toNat % 2 ^ 32)) s))
    ∧ (sel = 2 → exec (.csDrift sel) s = .next (settled 0x00 0 s.csu.rate s))
    ∧ (sel = 3 → exec (.csDrift sel) s = .next (settled 0x00 0 (BitVec.ofNat 32 (s.csu.offset.toNat / 2 ^ 32)) s)))
  ∧ ∀ (ts : BitVec 32) (s : State),
    let off := if s.csu.havePrev = true
      then s.csu.offset.toInt + fdiv (s.csu.rate.toInt * (ts - s.csu.tPrev).toInt) 65536 else s.csu.offset.toInt
    hasWord (.csAlign ts) 0x43 0 ts
    ∧ exec (.csAlign ts) s = .next (settled 0x00 0 (BitVec.ofInt 32 ((ts.toNat : Int) - fdiv off 65536)) s)

/-- 44_channel_sync.md R285. -/
def Obligations.HistoryReadGivesTheEntry : Prop :=
  ∀ (ch sel : BitVec 1) (idx : BitVec 8) (s : State),
    let h := if ch = 0 then s.csu.vh else s.csu.ah
    hasWord (.csHistRd ch sel idx) 0x45 (BitVec.ofNat 24 (ch.toNat + 2 * sel.toNat + 256 * idx.toNat)) 0
    ∧ (h.length ≤ idx.toNat → exec (.csHistRd ch sel idx) s = .next (settled 0x11 0 0 s))
    ∧ ∀ e, h[idx.toNat]? = some e →
        (sel = 0 → exec (.csHistRd ch sel idx) s = .next (settled 0x00 e.id e.ts s))
        ∧ (sel = 1 → exec (.csHistRd ch sel idx) s = .next (settled 0x00 e.id (BitVec.ofNat 32 e.used.toNat) s))

/-- From 44_channel_sync.md R277, R278: both averages are floors of `(9 * old + new) / 10`, the slope is the clamped floor of the
quotient, and there is no rate update without an earlier pair or with a time that has not advanced. That nothing wraps is, for
`OFFSET`, the inference the spec marks in R277 ("`OFFSET` never leaves the signed 48-bit range"); for `RATE` it is inferred here in the
same way from R278, where no rule states it. -/
def Obligations.EstimatorAveragesWithFloor : Prop :=
  (∀ (off : BitVec 48) (m : BitVec 32),
    10 * (offsetUpdate off m.toInt).toInt ≤ 9 * off.toInt + m.toInt * 2 ^ 16
      ∧ 9 * off.toInt + m.toInt * 2 ^ 16 < 10 * ((offsetUpdate off m.toInt).toInt + 1))
  ∧ ∀ (c : CsuState) (m vts : BitVec 32),
    (c.havePrev = false ∨ (vts - c.tPrev).toInt ≤ 0 → rateUpdate c m.toInt vts = c.rate)
    ∧ (c.havePrev = true → 0 < (vts - c.tPrev).toInt → ∃ q rho : Int,
        q * (vts - c.tPrev).toInt ≤ (m.toInt - c.mPrev.toInt) * 2 ^ 32
        ∧ (m.toInt - c.mPrev.toInt) * 2 ^ 32 < (q + 1) * (vts - c.tPrev).toInt
        ∧ rho = max (-2 ^ 31) (min q (2 ^ 31 - 1))
        ∧ 10 * (rateUpdate c m.toInt vts).toInt ≤ 9 * c.rate.toInt + rho
        ∧ 9 * c.rate.toInt + rho < 10 * ((rateUpdate c m.toInt vts).toInt + 1))

/-- From 44_channel_sync.md R272 and R276, the spec's own inference R287: after an accepted observation no entry is older than
the window, and neither history is longer than 64. -/
def Obligations.ObservationBoundsTheHistories : Prop :=
  ∀ (i : Instr) (id : BitVec 24) (ts : BitVec 32) (s t : State), i = .csObserveV id ts ∨ i = .csObserveA id ts →
    resyncReq s = false → s.csu.vh.length ≤ 64 → s.csu.ah.length ≤ 64 → exec i s = .next t →
    (∀ e ∈ t.csu.vh ++ t.csu.ah, (ts - e.ts).toInt ≤ (s.csu.histWin.toNat : Int))
      ∧ t.csu.vh.length ≤ 64 ∧ t.csu.ah.length ≤ 64

/-- From 44_channel_sync.md R277, the spec's own inference R286: from 0, `n` matches with the measurement `m` bring the offset
to `m * (1 - 0.9^n)` up to the floor rounding, the offset settles within 9 units below `m`, and the exact values for `m =
1000`. -/
def Obligations.ConstantOffsetConverges : Prop :=
  (∀ (m : BitVec 32) (n : Nat),
    let x := ((fun off => offsetUpdate off m.toInt)^[n] 0).toInt
    10 ^ n * x ≤ m.toInt * 2 ^ 16 * (10 ^ n - 9 ^ n) ∧ m.toInt * 2 ^ 16 * (10 ^ n - 9 ^ n) < 10 ^ n * (x + 10))
  ∧ (∀ m : BitVec 32, ∃ n₀, ∀ n, n₀ ≤ n →
    let x := ((fun off => offsetUpdate off m.toInt)^[n] 0).toInt
    m.toInt * 2 ^ 16 - 9 ≤ x ∧ x ≤ m.toInt * 2 ^ 16)
  ∧ ∀ r ∈ [(1, 6553600), (2, 12451840), (3, 17760256), (10, 42685008), (20, 57568349)],
    ((fun off => offsetUpdate off 1000)^[r.1] 0).toInt = (r.2 : Int)

/-! ### The code -/

/-- 41_rs_fec.md R151, R152: the laws of the field, the inverse, and the primitive element. -/
def Obligations.SymbolFieldLaws : Prop :=
  (∀ a b c : Sym, gmul a b = gmul b a ∧ gmul (gmul a b) c = gmul a (gmul b c)
    ∧ gmul a (gadd b c) = gadd (gmul a b) (gmul a c) ∧ gmul a 0 = 0 ∧ gmul a 1 = a)
  ∧ (gmul 0x80 0x02 = 0x1D ∧ gmul 0x53 0xCA = 0x8F ∧ gmul 0xFF 0xFF = 0xE2)
  ∧ (∀ a b : Sym, a ≠ 0 → (gmul a b = 1 ↔ b = ginv a))
  ∧ gpow alpha 255 = 1 ∧ (∀ a : Sym, a ≠ 0 → ∃! e, e < 255 ∧ gpow alpha e = a)
  ∧ ∀ e < 255, ginv (alphaPow e) = alphaPow (255 - e)

/-- From 41_rs_fec.md R156, with its tables of `KMAX`, which the spec marks as computed: the parity count is the least odd
number not below the ratio, it never falls as `K` grows, and the block is legal exactly up to the tabulated `KMAX`. -/
def Obligations.ParityCountIsTheLeastOddCover : Prop :=
  (∀ rpct k, parityCount rpct k % 2 = 1 ∧ k * rpct ≤ 100 * parityCount rpct k
    ∧ ∀ q, q % 2 = 1 → k * rpct ≤ 100 * q → parityCount rpct k ≤ q)
  ∧ (∀ rpct k k', k ≤ k' → parityCount rpct k ≤ parityCount rpct k')
  ∧ ∀ r ∈ [(25, 204, 51), (26, 202, 53), (27, 200, 55), (28, 198, 57), (29, 196, 57), (30, 196, 59), (31, 194, 61),
      (32, 192, 63), (33, 190, 63), (34, 190, 65), (35, 188, 67), (36, 186, 67), (37, 186, 69), (38, 184, 71), (39, 182, 71),
      (40, 182, 73), (41, 180, 75), (42, 178, 75), (43, 178, 77), (44, 176, 79), (45, 175, 79), (46, 174, 81), (47, 172, 81),
      (48, 172, 83), (49, 170, 85), (50, 170, 85)],
    parityCount r.1 r.2.1 = r.2.2 ∧ ∀ k, k + parityCount r.1 k ≤ 255 ↔ k ≤ r.2.1

/-- From 41_rs_fec.md R155 and R157, with the spec's own inference R164 (b): the data symbols first, unchanged, then `P`
symbols that make the block a codeword. -/
def Obligations.EncoderGivesTheSystematicCodeword : Prop :=
  ∀ (p : Nat) (d : List Sym), 1 ≤ p →
    ∃ q : List Sym, encodeBlock p d = d ++ q ∧ q.length = p ∧ ∀ i < p, syndrome (encodeBlock p d) i = 0

/-- From 41_rs_fec.md R155 and R157, the spec's own inference R164 (a). -/
def Obligations.EncoderIsLinear : Prop :=
  ∀ (p : Nat) (d d' : List Sym), d.length = d'.length →
    encodeBlock p (List.zipWith gadd d d') = List.zipWith gadd (encodeBlock p d) (encodeBlock p d')

/-- 41_rs_fec.md R158: the distance of the code, and one codeword through every choice of the unerased symbols when exactly `P`
positions are erased. -/
def Obligations.CodeIsMaximumDistanceSeparable : Prop :=
  (∀ (p : Nat) (c d : List Sym), c.length = d.length → c.length ≤ 255 → isCodeword p c = true → isCodeword p d = true → c ≠ d →
    p + 1 ≤ differences c d)
  ∧ ∀ (p : Nat) (r : List Sym) (era : List Bool), era.length = r.length → r.length ≤ 255 → erasureCount era = p →
    ∃ c, withinBound p r era c ∧ ∀ d, withinBound p r era d → d = c

/-- 41_rs_fec.md R159, one direction: what the decoder answers is a codeword within the bound, with its count of errors. -/
def Obligations.DecoderAnswersAreWithinTheBound : Prop :=
  ∀ (p : Nat) (r : List Sym) (era : List Bool) (c : List Sym) (e : Nat), era.length = r.length →
    decodeBlock p r era = some (c, e) → withinBound p r era c ∧ e = errorCount r c era

/-- 41_rs_fec.md R159: the decoding function is total on blocks and answers exactly the codeword within the bound. -/
def Obligations.DecoderComputesTheBoundedCodeword : Prop :=
  ∀ (p : Nat) (r : List Sym) (era : List Bool), era.length = r.length → p < r.length → r.length ≤ 255 →
    ∀ c e, decodeBlock p r era = some (c, e) ↔ withinBound p r era c ∧ e = errorCount r c era

/-- From 41_rs_fec.md R158 and R159, the spec's own inference R165: with an odd parity count one error beyond the bound is always
detected, and the example of an even count, where it is not. -/
def Obligations.OneErrorBeyondTheBoundIsDetected : Prop :=
  (∀ (p : Nat) (r c : List Sym), p % 2 = 1 → p < r.length → r.length ≤ 255 → c.length = r.length → isCodeword p c = true →
    differences c r = p / 2 + 1 → decodeBlock p r (List.replicate r.length false) = none)
  ∧ isCodeword 2 [0x10, 0x20, 0x30, 0x40, 0x40] = true
  ∧ decodeBlock 2 [0x11, 0x23, 0x30, 0x40, 0x40] (List.replicate 5 false) = some ([0x11, 0x23, 0x32, 0x40, 0x40], 1)

/-- From 41_rs_fec.md R163 and R166, the spec's own inference R164 (c): decoding a block just encoded corrects nothing and
leaves every symbol as it was. -/
def Obligations.EncodeThenDecodeKeepsTheBlock : Prop :=
  ∀ (k : BitVec 8) (s t : State), blockWritten s → exec (.rsEnc k) s = .next t → t.ctl.status = 0 →
    ∃ u, exec (.rsDec k) t = .next u ∧ u.rsp = some 0 ∧ u.rsu.cwOk = true ∧ u.rsu.cwLen = t.rsu.cwLen
      ∧ ∀ a, Mem.get? u.rsu.cw a = Mem.get? t.rsu.cw a ∧ Mem.get? u.rsu.era a = Mem.get? t.rsu.era a

/-- 41_rs_fec.md R170: `len(f)` counts the symbols of a slice, `sigma` stays inside the block and orders it by slice and then by
position; hence it is a bijection. -/
def Obligations.InterleavingOrdersBySlice : Prop :=
  ∀ n d, 1 ≤ d →
    (∀ f < d, sliceLen n d f = ((List.range n).filter fun j => j % d == f).length)
    ∧ (∀ j < n, sigma n d j < n)
    ∧ (∀ i < n, ∃ j < n, sigma n d j = i)
    ∧ ∀ j < n, ∀ j' < n, (sigma n d j < sigma n d j' ↔ j % d < j' % d ∨ (j % d = j' % d ∧ j < j'))

/-- From 41_rs_fec.md R156 and R171, the spec's own inference in 10_state.md R29: a depth of 5 or more passes the depth check
for every block, and 4 does not. -/
def Obligations.DepthFiveIsTheLeastThatAlwaysPasses : Prop :=
  (∀ rpct k d, 25 ≤ rpct → 5 ≤ d → cdiv (k + parityCount rpct k) d ≤ parityCount rpct k)
  ∧ ∃ rpct k, 25 ≤ rpct ∧ rpct ≤ 50 ∧ 1 ≤ k ∧ k + parityCount rpct k ≤ 255
    ∧ parityCount rpct k < cdiv (k + parityCount rpct k) 4

/-- 41_rs_fec.md R173: `ILV_MERGE` after `ILV_SPLIT` with nothing lost restores the buffer. -/
def Obligations.SplitThenMergeRestoresTheBuffer : Prop :=
  ∀ (k : BitVec 8) (s t : State), blockWritten s → registersOk s → exec (.ilvSplit k) s = .next t → t.ctl.status = 0 →
    ∃ u, exec (.ilvMerge k 0) t = .next u ∧ u.ctl.status = 0 ∧ u.rsu.ilv = false ∧ u.rsu.cwLen = s.rsu.cwLen
      ∧ ∀ a, Mem.get? u.rsu.cw a = Mem.get? s.rsu.cw a ∧ Mem.get? u.rsu.era a = Mem.get? s.rsu.era a

/-! ### Whole-block rules -/

/-- 60_exceptions.md R323, 42_frame_marker.md R215 (d), and R313 (b), which the spec collects from the command rules: a block
that failed cannot be read, and a parse that failed leaves the frame before it. -/
def Obligations.FailuresPublishNothing : Prop :=
  (∀ (i : Instr) (k : BitVec 8) (s t : State), i = .rsEnc k ∨ i = .rsDec k ∨ i = .ilvSplit k ∨ (∃ lost, i = .ilvMerge k lost) →
    exec i s = .next t → t.ctl.status = 0x01 ∨ t.ctl.status = 0x02 →
    t.rsu.cwLen = 0 ∧ t.rsu.cwOk = false ∧ ∀ idx, exec (.cwRd idx) t = .next (settled 0x11 0 0 t))
  ∧ ∀ s t : State, exec .frParse s = .next t → t.ctl.status ≠ 0 →
    ∃ st ra rb ps rc sc, t = settled st ra rb { s with fmu := { s.fmu with parseState := ps, frRcnt := rc, frScore := sc } }

/-- From 42_frame_marker.md R209 and R216 to R222, the spec's own inference R223: what `FR_FORMAT` laid out, `FR_PARSE` reads
back. The premises are what 70_reset_and_hazards.md R353 asks of the host: the whole template and the frame's bytes have been
written. -/
def Obligations.FormatThenParseReturnsTheFrame : Prop :=
  ∀ s t : State, templateWritten s →
    (∀ i < s.fmu.hdrPaylen.toNat + s.fmu.frParlen.toNat, (Mem.get? s.fmu.fbuf i).isSome = true) →
    exec .frFormat s = .next t → t.ctl.status = 0 →
    ∃ u, exec .frParse t = .next u ∧ u.ctl.status = 0 ∧ u.fmu.hdrFrameId = s.fmu.hdrFrameId
      ∧ u.fmu.hdrTotal = s.fmu.hdrTotal ∧ u.fmu.hdrPaylen = s.fmu.hdrPaylen ∧ u.fmu.hdrCksum = t.fmu.hdrCksum
      ∧ (∀ i < s.fmu.hdrPaylen.toNat + s.fmu.frParlen.toNat, Mem.get? u.fmu.fbuf i = Mem.get? s.fmu.fbuf i)
      ∧ ∀ i, s.fmu.hdrPaylen.toNat + s.fmu.frParlen.toNat ≤ i → i < u.fmu.fbLen.toNat → Mem.get? u.fmu.fbuf i = some 0

/-- 42_frame_marker.md R207: the published values of the checksum, and that a list followed by its own checksum leaves the
register at 0. -/
def Obligations.ChecksumLeavesNoResidue : Prop :=
  crc16 [0x31, 0x32, 0x33, 0x34, 0x35, 0x36, 0x37, 0x38, 0x39] = 0x29B1 ∧ crc16 [] = 0xFFFF
  ∧ crc16 [0, 0, 0, 0, 0, 0, 0] = 0xF1CE ∧ crc16 [0x00, 0x01, 0x02, 0x00, 0x03, 0x00, 0x03] = 0x99DE
  ∧ ∀ bytes : List Byte, crc16 (bytes ++ bytesBe (crc16 bytes).toNat 2) = 0

/-- The spec's own inference from 43_audio_correlator.md R254 and 20_memory.md R75 ("Every `C(l)` therefore fits the signed 48-bit
registers without wrapping"): a product is at most 2^30 in magnitude, a correlation over at most 1024 samples at most 2^40, it
is its own 48-bit pattern, and against the reset threshold `AU_CORR` never answers OK. -/
def Obligations.CorrelationFitsItsRegister : Prop :=
  (∀ a b : BitVec 16, |sampleOf a * sampleOf b| ≤ 2 ^ 30)
  ∧ (∀ (s : State) (t l : Nat), t ≤ 1024 → |correlation s t l| ≤ 2 ^ 40 ∧ (wrap 48 (correlation s t l)).toInt = correlation s t l)
  ∧ ∀ s t : State, s.apc.ptLen.toNat ≤ 1024 → s.apc.auThreshHi = 0x7FFF → s.apc.auThreshLo = 0xFFFFFFFF →
    exec .auCorr s = .next t → t.ctl.status ≠ 0

/-! ### Invariants -/

/-- 20_memory.md R70, R77; 10_state.md R22, R30, R40: every step keeps the memories canonical and inside their spaces, the
registers in their legal ranges, and the counts within bounds. -/
def Obligations.StepKeepsMemoriesAndRegisters : Prop :=
  ∀ s t : State, memoriesOk s ∧ registersOk s ∧ countersOk s → step s = .next t → memoriesOk t ∧ registersOk t ∧ countersOk t

/-- 10_state.md R51; 44_channel_sync.md R271, R274, R275: every step keeps the histories short, without repeated ids, and without
a pair left unmatched. -/
def Obligations.StepKeepsTheHistories : Prop :=
  ∀ s t : State, historiesOk s → step s = .next t → historiesOk t

/-- 10_state.md R30; 20_memory.md R71: every step keeps the valid part of the codeword buffer written, and `CW_OK` true only of a
codeword of the block that `RS_LAST` names. -/
def Obligations.StepKeepsTheCodewordBuffer : Prop :=
  ∀ s t : State, blockWritten s ∧ codewordOk s → step s = .next t → blockWritten t ∧ codewordOk t

/-- The invariants of the three statements before hold after reset (10_state.md R55). -/
def Obligations.InvariantsHoldAfterReset : Prop :=
  memoriesOk State.reset ∧ registersOk State.reset ∧ countersOk State.reset ∧ historiesOk State.reset
    ∧ blockWritten State.reset ∧ codewordOk State.reset
end

