-- ==== Sys2Proof/Laws/Code.lean ====
section
/-! SUPPORT. Small facts of the symbol field and of the block code: lengths, and the field operations on 0 and 1. -/

namespace Sys2Proof.Machine

@[simp] theorem gadd_zero (a : Sym) : gadd a 0 = a := by simp [gadd]

@[simp] theorem zero_gadd (a : Sym) : gadd 0 a = a := by simp [gadd]

@[simp] theorem gadd_self (a : Sym) : gadd a a = 0 := by simp [gadd]

theorem gadd_comm (a b : Sym) : gadd a b = gadd b a := BitVec.xor_comm a b

theorem gadd_assoc (a b c : Sym) : gadd (gadd a b) c = gadd a (gadd b c) := BitVec.xor_assoc a b c

@[simp] theorem polyScale_length (k : Sym) (p : List Sym) : (polyScale k p).length = p.length := by simp [polyScale]

@[simp] theorem genPoly_length (p : Nat) : (genPoly p).length = p + 1 := by
  induction p with
  | zero => rfl
  | succ p ih => simp [genPoly, ih]

theorem lfsrStep_length (gTail reg : List Sym) (d : Sym) (h : gTail.length = reg.length) (hp : 0 < reg.length) :
    (lfsrStep gTail reg d).length = reg.length := by
  simp [lfsrStep, h]; omega

/-- The encoder appends exactly `P` parity symbols (41_rs_fec.md R157). -/
theorem paritySymbols_length (p : Nat) (d : List Sym) (hp : 0 < p) : (paritySymbols p d).length = p := by
  unfold paritySymbols
  suffices h : ∀ (d reg : List Sym), reg.length = p → (d.foldl (lfsrStep (genPoly p).tail) reg).length = p by
    exact h d _ (by simp)
  intro d
  induction d with
  | nil => intro reg h; simpa using h
  | cons x d ih =>
    intro reg h
    exact ih _ ((lfsrStep_length _ _ _ (by simp [h]) (by omega)).trans h)

theorem encodeBlock_length (p : Nat) (d : List Sym) (hp : 0 < p) : (encodeBlock p d).length = d.length + p := by
  simp [encodeBlock, paritySymbols_length p d hp]

@[simp] theorem syndromes_length (p : Nat) (r : List Sym) : (syndromes p r).length = p := by simp [syndromes]

/-- The parity count is odd, hence not 0 (41_rs_fec.md R156). -/
theorem parityCount_odd (rpct k : Nat) : parityCount rpct k % 2 = 1 := by
  unfold parityCount oddup; split_ifs <;> omega

theorem parityCount_pos (rpct k : Nat) : 0 < parityCount rpct k := by
  have := parityCount_odd rpct k; omega

/-- A list is a codeword exactly when each of its syndromes is 0 (41_rs_fec.md R155). -/
theorem isCodeword_iff (p : Nat) (c : List Sym) : isCodeword p c = true ↔ ∀ i, i < p → syndrome c i = 0 := by
  simp [isCodeword, syndromes]

end Sys2Proof.Machine
end

