-- ==== Sys2Proof/Laws/Memory.lean ====
section
/-! SUPPORT. The laws of the buffer memories: read after write, canonical form, and runs of writes. -/

namespace Sys2Proof.Machine

@[simp] theorem Mem.get?_nil {w : Nat} (i : Nat) : Mem.get? ([] : Mem w) i = none := rfl

@[simp] theorem Mem.get?_write_self {w : Nat} (m : Mem w) (i : Nat) (v : BitVec w) :
    Mem.get? (Mem.write m i v) i = some v := by
  induction m with
  | nil => simp [Mem.write, Mem.get?]
  | cons c m ih =>
    obtain ⟨b, x⟩ := c
    unfold Mem.write
    split_ifs with h1 h2
    · simp [Mem.get?]
    · simp [Mem.get?]
    · simp [Mem.get?, h2, ih]

theorem Mem.get?_write_ne {w : Nat} (m : Mem w) (i a : Nat) (v : BitVec w) (h : a ≠ i) :
    Mem.get? (Mem.write m i v) a = Mem.get? m a := by
  induction m with
  | nil => simp [Mem.write, Mem.get?, h]
  | cons c m ih =>
    obtain ⟨b, x⟩ := c
    unfold Mem.write
    split_ifs with h1 h2
    · simp [Mem.get?, h]
    · subst h2; simp [Mem.get?, h]
    · simp [Mem.get?, ih]

/-- One write, read back at any index. -/
theorem Mem.get?_write {w : Nat} (m : Mem w) (i a : Nat) (v : BitVec w) :
    Mem.get? (Mem.write m i v) a = if a = i then some v else Mem.get? m a := by
  split_ifs with h
  · subst h; simp
  · exact Mem.get?_write_ne m i a v h

/-- The canonical form of a memory that begins with a listed cell. -/
theorem Mem.wf_cons {w : Nat} (a : Nat) (x : BitVec w) (m : Mem w) :
    Mem.wf ((a, x) :: m) = true ↔ (∀ c ∈ m.head?, a < c.1) ∧ Mem.wf m = true := by
  cases m with
  | nil => simp [Mem.wf]
  | cons c m => obtain ⟨b, y⟩ := c; simp [Mem.wf]

/-- The first index of a memory after a write: the written one or the first it had. -/
theorem Mem.head?_write {w : Nat} (m : Mem w) (i : Nat) (v : BitVec w) (lo : Nat) (hi : lo < i)
    (hm : ∀ c ∈ m.head?, lo < c.1) : ∀ c ∈ (Mem.write m i v).head?, lo < c.1 := by
  cases m with
  | nil => simpa [Mem.write] using hi
  | cons c m =>
    obtain ⟨b, x⟩ := c
    have hb : lo < b := hm (b, x) (by simp)
    unfold Mem.write
    split_ifs <;> simp <;> assumption

/-- A write keeps the canonical form. -/
theorem Mem.wf_write {w : Nat} (m : Mem w) (i : Nat) (v : BitVec w) (h : Mem.wf m = true) :
    Mem.wf (Mem.write m i v) = true := by
  induction m with
  | nil => simp [Mem.write, Mem.wf]
  | cons c m ih =>
    obtain ⟨b, x⟩ := c
    rw [Mem.wf_cons] at h
    unfold Mem.write
    split_ifs with h1 h2
    · rw [Mem.wf_cons, Mem.wf_cons]; exact ⟨by simpa using h1, h⟩
    · subst h2; rw [Mem.wf_cons]; exact h
    · rw [Mem.wf_cons]
      exact ⟨Mem.head?_write m i v b (by omega) h.1, ih h.2⟩

/-- A write to an element that exists keeps every listed element one that exists. -/
theorem Mem.within_write {w : Nat} (m : Mem w) (i : Nat) (v : BitVec w) (n : Nat) (hi : i < n)
    (h : Mem.within m n = true) : Mem.within (Mem.write m i v) n = true := by
  induction m with
  | nil => simpa [Mem.write, Mem.within] using hi
  | cons c m ih =>
    obtain ⟨b, x⟩ := c
    simp only [Mem.within, List.all_cons, Bool.and_eq_true, decide_eq_true_eq] at h ih
    unfold Mem.write
    split_ifs with h1 h2
    · simp [Mem.within, hi, h.1]; simpa using h.2
    · simp [Mem.within, hi]; simpa using h.2
    · simp only [Mem.within, List.all_cons, Bool.and_eq_true, decide_eq_true_eq]
      exact ⟨h.1, ih h.2⟩

/-- A run of writes keeps the canonical form. -/
theorem Mem.wf_writeList {w : Nat} (vs : List (BitVec w)) :
    ∀ (m : Mem w) (base : Nat), Mem.wf m = true → Mem.wf (Mem.writeList m base vs) = true := by
  induction vs with
  | nil => intro m base h; exact h
  | cons v vs ih => intro m base h; exact ih _ _ (Mem.wf_write m base v h)

/-- A run of writes to elements that exist keeps every listed element one that exists. -/
theorem Mem.within_writeList {w : Nat} (vs : List (BitVec w)) (n : Nat) :
    ∀ (m : Mem w) (base : Nat), base + vs.length ≤ n → Mem.within m n = true →
      Mem.within (Mem.writeList m base vs) n = true := by
  induction vs with
  | nil => intro m base _ h; exact h
  | cons v vs ih =>
    intro m base hb h
    simp only [List.length_cons] at hb
    exact ih _ _ (by omega) (Mem.within_write m base v n (by omega) h)

/-- A run of writes leaves every index outside it alone. -/
theorem Mem.get?_writeList_outside {w : Nat} (vs : List (BitVec w)) :
    ∀ (m : Mem w) (base a : Nat), a < base ∨ base + vs.length ≤ a →
      Mem.get? (Mem.writeList m base vs) a = Mem.get? m a := by
  induction vs with
  | nil => intro m base a _; rfl
  | cons v vs ih =>
    intro m base a h
    simp only [List.length_cons] at h
    rw [Mem.writeList, ih _ _ _ (by omega), Mem.get?_write_ne _ _ _ _ (by omega)]

/-- A run of writes, read back inside it. -/
theorem Mem.get?_writeList_inside {w : Nat} (vs : List (BitVec w)) :
    ∀ (m : Mem w) (base j : Nat), j < vs.length → Mem.get? (Mem.writeList m base vs) (base + j) = vs[j]? := by
  induction vs with
  | nil => intro m base j h; simp at h
  | cons v vs ih =>
    intro m base j h
    cases j with
    | zero =>
      rw [Mem.writeList, Mem.get?_writeList_outside _ _ _ _ (by omega)]; simp
    | succ j =>
      rw [Mem.writeList, show base + (j + 1) = base + 1 + j by omega, ih _ _ _ (by simpa using h)]; simp

/-- An index a canonical memory lists is inside it. -/
theorem Mem.lt_of_get? {w : Nat} (m : Mem w) (n i : Nat) (h : Mem.within m n = true)
    (hi : (Mem.get? m i).isSome = true) : i < n := by
  induction m with
  | nil => simp at hi
  | cons c m ih =>
    obtain ⟨b, x⟩ := c
    simp only [Mem.within, List.all_cons, Bool.and_eq_true, decide_eq_true_eq] at h ih
    by_cases hb : i = b
    · omega
    · exact ih h.2 (by simpa [Mem.get?, hb] using hi)

/-- A written cell reads as it was written, whatever the draw (20_memory.md R79). -/
theorem readCell_of_get? {w : Nat} (space : Space) (s : State) (m : Mem w) (i : Nat) (v : BitVec w)
    (h : Mem.get? m i = some v) : readCell space s m i = v := by simp [readCell, h]

end Sys2Proof.Machine
end

