-- ==== Sys2Proof/Laws/Prim.lean ====
section
/-! SUPPORT. What the operators of 00_scope.md R12 and the sequences of R14 do. -/

namespace Sys2Proof.Machine

/-- R12: `fdiv(a, b)` is the largest integer `q` with `q*b <= a`. -/
theorem fdiv_spec (a b : Int) (h : 0 < b) : fdiv a b * b ≤ a ∧ a < (fdiv a b + 1) * b :=
  ⟨Int.ediv_mul_le a (by omega), Int.lt_ediv_add_one_mul_self a h⟩

/-- R12: `cdiv(a, b) = -fdiv(-a, b)`. -/
theorem cdiv_eq_neg_fdiv (a b : Nat) (h : 0 < b) : (cdiv a b : Int) = -fdiv (-(a : Int)) (b : Int) := by
  obtain ⟨h1, h1'⟩ := fdiv_spec (-(a : Int)) b (by omega)
  have h2 : cdiv a b * b ≤ a + (b - 1) := Nat.div_mul_le_self _ _
  have h3 : a + (b - 1) < (cdiv a b + 1) * b := Nat.lt_mul_of_div_lt (Nat.lt_succ_self _) h
  zify [show 1 ≤ b from h] at h2 h3
  have hb : (0 : Int) < b := by exact_mod_cast h
  have lo : -1 < (cdiv a b : Int) + fdiv (-(a : Int)) b := by
    by_contra hc
    have hc' : (cdiv a b : Int) + fdiv (-(a : Int)) b + 2 ≤ 1 := by omega
    have := mul_le_mul_of_nonneg_right hc' hb.le
    linarith
  have hi : (cdiv a b : Int) + fdiv (-(a : Int)) b < 1 := by
    by_contra hc
    have hc' : 1 ≤ (cdiv a b : Int) + fdiv (-(a : Int)) b := by omega
    have := mul_le_mul_of_nonneg_right hc' hb.le
    linarith
  omega

/-- The next odd number is odd, and at most one above. -/
theorem oddup_spec (p : Nat) : oddup p % 2 = 1 ∧ p ≤ oddup p ∧ oddup p ≤ p + 1 := by
  unfold oddup; split_ifs <;> omega

/-- Clamping to the signed range lands in it. -/
theorem satS_bounds (n : Nat) (v : Int) : -(2 : Int) ^ (n - 1) ≤ satS n v ∧ satS n v ≤ (2 : Int) ^ (n - 1) - 1 := by
  have : (0 : Int) < 2 ^ (n - 1) := by positivity
  unfold satS; omega

/-- A signed 32-bit difference is a signed 32-bit number. -/
theorem sdiff32_bounds (a b : BitVec 32) : -2 ^ 31 ≤ sdiff32 a b ∧ sdiff32 a b < 2 ^ 31 := by
  have h1 := BitVec.le_toInt (a - b)
  have h2 := BitVec.toInt_lt (x := a - b)
  norm_num at h1 h2
  constructor <;> unfold sdiff32 <;> norm_num <;> assumption

@[simp] theorem bitsBe_length (v n : Nat) : (bitsBe v n).length = n := by simp [bitsBe]

@[simp] theorem bytesBe_length (v n : Nat) : (bytesBe v n).length = n := by simp [bytesBe]

@[simp] theorem bitsOfBytes_nil : bitsOfBytes [] = [] := rfl

@[simp] theorem bitsOfBytes_cons (v : Byte) (bytes : List Byte) :
    bitsOfBytes (v :: bytes) = bitsBe v.toNat 8 ++ bitsOfBytes bytes := rfl

theorem bitsOfBytes_length (bytes : List Byte) : (bitsOfBytes bytes).length = 8 * bytes.length := by
  induction bytes with
  | nil => rfl
  | cons v bytes ih => simp [ih]; omega

/-- The most significant bit first: one more bit is the quotient's bits and then the last bit. -/
theorem bitsBe_succ (v n : Nat) : bitsBe v (n + 1) = bitsBe (v / 2) n ++ [v.testBit 0] := by
  unfold bitsBe
  rw [List.range_succ, List.map_append]
  congr 1
  · apply List.map_congr_left
    intro i hi
    rw [List.mem_range] at hi
    rw [show n + 1 - 1 - i = (n - 1 - i) + 1 by omega, Nat.testBit_succ]
  · simp

/-- R14: `int_be` is the inverse of `bits_be`. -/
theorem intBe_bitsBe (n : Nat) : ∀ v : Nat, intBe (bitsBe v n) = v % 2 ^ n := by
  induction n with
  | zero => intro v; simp [bitsBe, intBe, Nat.mod_one]
  | succ n ih =>
    intro v
    have h := ih (v / 2)
    rw [bitsBe_succ]
    unfold intBe at *
    rw [List.foldl_append, h]
    simp only [List.foldl_cons, List.foldl_nil, Nat.testBit_zero]
    have : (decide (v % 2 = 1)).toNat = v % 2 := by
      rcases Nat.mod_two_eq_zero_or_one v with h | h <;> simp [h]
    rw [this, pow_succ', Nat.mod_mul]
    omega

end Sys2Proof.Machine
end

