-- ==== Sys2Proof/Laws/State.lean ====
section
/-! SUPPORT. One lemma per field per update of the state: what each named update leaves in each field. All are true by rfl. -/

namespace Sys2Proof.Machine

/-! ### `respond` -/

@[simp] theorem respond_ctl_status (st : OutcomeCode) (ra : BitVec 24) (rb : BitVec 32) (s : State) : (respond st ra rb s).ctl.status = codeOf st := rfl
@[simp] theorem respond_ctl_evt (st : OutcomeCode) (ra : BitVec 24) (rb : BitVec 32) (s : State) : (respond st ra rb s).ctl.evt = s.ctl.evt := rfl
@[simp] theorem respond_ctl_evtEn (st : OutcomeCode) (ra : BitVec 24) (rb : BitVec 32) (s : State) : (respond st ra rb s).ctl.evtEn = s.ctl.evtEn := rfl
@[simp] theorem respond_rsu (st : OutcomeCode) (ra : BitVec 24) (rb : BitVec 32) (s : State) : (respond st ra rb s).rsu = s.rsu := rfl
@[simp] theorem respond_fmu (st : OutcomeCode) (ra : BitVec 24) (rb : BitVec 32) (s : State) : (respond st ra rb s).fmu = s.fmu := rfl
@[simp] theorem respond_apc (st : OutcomeCode) (ra : BitVec 24) (rb : BitVec 32) (s : State) : (respond st ra rb s).apc = s.apc := rfl
@[simp] theorem respond_csu (st : OutcomeCode) (ra : BitVec 24) (rb : BitVec 32) (s : State) : (respond st ra rb s).csu = s.csu := rfl
@[simp] theorem respond_inputs (st : OutcomeCode) (ra : BitVec 24) (rb : BitVec 32) (s : State) : (respond st ra rb s).inputs = s.inputs := rfl
@[simp] theorem respond_rsp (st : OutcomeCode) (ra : BitVec 24) (rb : BitVec 32) (s : State) : (respond st ra rb s).rsp = some (responseWord st ra rb) := rfl
@[simp] theorem respond_draws (st : OutcomeCode) (ra : BitVec 24) (rb : BitVec 32) (s : State) : (respond st ra rb s).draws = s.draws + 1 := rfl

/-! ### `raise` -/

@[simp] theorem raise_ctl_status (st : OutcomeCode) (ra : BitVec 24) (rb : BitVec 32) (s : State) : (raise st ra rb s).ctl.status = codeOf st := rfl
@[simp] theorem raise_ctl_evt (st : OutcomeCode) (ra : BitVec 24) (rb : BitVec 32) (s : State) : (raise st ra rb s).ctl.evt = s.ctl.evt := rfl
@[simp] theorem raise_ctl_evtEn (st : OutcomeCode) (ra : BitVec 24) (rb : BitVec 32) (s : State) : (raise st ra rb s).ctl.evtEn = s.ctl.evtEn := rfl
@[simp] theorem raise_rsu (st : OutcomeCode) (ra : BitVec 24) (rb : BitVec 32) (s : State) : (raise st ra rb s).rsu = s.rsu := rfl
@[simp] theorem raise_fmu (st : OutcomeCode) (ra : BitVec 24) (rb : BitVec 32) (s : State) : (raise st ra rb s).fmu = s.fmu := rfl
@[simp] theorem raise_apc (st : OutcomeCode) (ra : BitVec 24) (rb : BitVec 32) (s : State) : (raise st ra rb s).apc = s.apc := rfl
@[simp] theorem raise_csu (st : OutcomeCode) (ra : BitVec 24) (rb : BitVec 32) (s : State) : (raise st ra rb s).csu = s.csu := rfl
@[simp] theorem raise_inputs (st : OutcomeCode) (ra : BitVec 24) (rb : BitVec 32) (s : State) : (raise st ra rb s).inputs = s.inputs := rfl
@[simp] theorem raise_rsp (st : OutcomeCode) (ra : BitVec 24) (rb : BitVec 32) (s : State) : (raise st ra rb s).rsp = some (responseWord st ra rb) := rfl
@[simp] theorem raise_draws (st : OutcomeCode) (ra : BitVec 24) (rb : BitVec 32) (s : State) : (raise st ra rb s).draws = s.draws + 1 := rfl

/-! ### `discardBlock` -/

@[simp] theorem discardBlock_ctl (s : State) : (discardBlock s).ctl = s.ctl := rfl
@[simp] theorem discardBlock_rsu_rsRpct (s : State) : (discardBlock s).rsu.rsRpct = s.rsu.rsRpct := rfl
@[simp] theorem discardBlock_rsu_ilvD (s : State) : (discardBlock s).rsu.ilvD = s.rsu.ilvD := rfl
@[simp] theorem discardBlock_rsu_cwLen (s : State) : (discardBlock s).rsu.cwLen = 0 := rfl
@[simp] theorem discardBlock_rsu_cwOk (s : State) : (discardBlock s).rsu.cwOk = false := rfl
@[simp] theorem discardBlock_rsu_ilv (s : State) : (discardBlock s).rsu.ilv = s.rsu.ilv := rfl
@[simp] theorem discardBlock_rsu_errCnt (s : State) : (discardBlock s).rsu.errCnt = s.rsu.errCnt := rfl
@[simp] theorem discardBlock_rsu_eraCnt (s : State) : (discardBlock s).rsu.eraCnt = s.rsu.eraCnt := rfl
@[simp] theorem discardBlock_rsu_lastK (s : State) : (discardBlock s).rsu.lastK = s.rsu.lastK := rfl
@[simp] theorem discardBlock_rsu_lastP (s : State) : (discardBlock s).rsu.lastP = s.rsu.lastP := rfl
@[simp] theorem discardBlock_rsu_cw (s : State) : (discardBlock s).rsu.cw = s.rsu.cw := rfl
@[simp] theorem discardBlock_rsu_era (s : State) : (discardBlock s).rsu.era = s.rsu.era := rfl
@[simp] theorem discardBlock_fmu (s : State) : (discardBlock s).fmu = s.fmu := rfl
@[simp] theorem discardBlock_apc (s : State) : (discardBlock s).apc = s.apc := rfl
@[simp] theorem discardBlock_csu (s : State) : (discardBlock s).csu = s.csu := rfl
@[simp] theorem discardBlock_inputs (s : State) : (discardBlock s).inputs = s.inputs := rfl
@[simp] theorem discardBlock_rsp (s : State) : (discardBlock s).rsp = s.rsp := rfl
@[simp] theorem discardBlock_draws (s : State) : (discardBlock s).draws = s.draws := rfl

/-! ### `setEvents` -/

@[simp] theorem setEvents_ctl_status (bits : BitVec 3) (s : State) : (setEvents bits s).ctl.status = s.ctl.status := rfl
@[simp] theorem setEvents_ctl_evt (bits : BitVec 3) (s : State) : (setEvents bits s).ctl.evt = s.ctl.evt ||| bits := rfl
@[simp] theorem setEvents_ctl_evtEn (bits : BitVec 3) (s : State) : (setEvents bits s).ctl.evtEn = s.ctl.evtEn := rfl
@[simp] theorem setEvents_rsu (bits : BitVec 3) (s : State) : (setEvents bits s).rsu = s.rsu := rfl
@[simp] theorem setEvents_fmu (bits : BitVec 3) (s : State) : (setEvents bits s).fmu = s.fmu := rfl
@[simp] theorem setEvents_apc (bits : BitVec 3) (s : State) : (setEvents bits s).apc = s.apc := rfl
@[simp] theorem setEvents_csu (bits : BitVec 3) (s : State) : (setEvents bits s).csu = s.csu := rfl
@[simp] theorem setEvents_inputs (bits : BitVec 3) (s : State) : (setEvents bits s).inputs = s.inputs := rfl
@[simp] theorem setEvents_rsp (bits : BitVec 3) (s : State) : (setEvents bits s).rsp = s.rsp := rfl
@[simp] theorem setEvents_draws (bits : BitVec 3) (s : State) : (setEvents bits s).draws = s.draws := rfl

/-! ### `clearEvents` -/

@[simp] theorem clearEvents_ctl_status (mask : BitVec 2) (s : State) : (clearEvents mask s).ctl.status = s.ctl.status := rfl
@[simp] theorem clearEvents_ctl_evt (mask : BitVec 2) (s : State) : (clearEvents mask s).ctl.evt = s.ctl.evt &&& ~~~(mask ++ 0#1 : BitVec 3) := rfl
@[simp] theorem clearEvents_ctl_evtEn (mask : BitVec 2) (s : State) : (clearEvents mask s).ctl.evtEn = s.ctl.evtEn := rfl
@[simp] theorem clearEvents_rsu (mask : BitVec 2) (s : State) : (clearEvents mask s).rsu = s.rsu := rfl
@[simp] theorem clearEvents_fmu (mask : BitVec 2) (s : State) : (clearEvents mask s).fmu = s.fmu := rfl
@[simp] theorem clearEvents_apc (mask : BitVec 2) (s : State) : (clearEvents mask s).apc = s.apc := rfl
@[simp] theorem clearEvents_csu (mask : BitVec 2) (s : State) : (clearEvents mask s).csu = s.csu := rfl
@[simp] theorem clearEvents_inputs (mask : BitVec 2) (s : State) : (clearEvents mask s).inputs = s.inputs := rfl
@[simp] theorem clearEvents_rsp (mask : BitVec 2) (s : State) : (clearEvents mask s).rsp = s.rsp := rfl
@[simp] theorem clearEvents_draws (mask : BitVec 2) (s : State) : (clearEvents mask s).draws = s.draws := rfl

/-! ### `acknowledgeResync` -/

@[simp] theorem acknowledgeResync_ctl_status (s : State) : (acknowledgeResync s).ctl.status = s.ctl.status := rfl
@[simp] theorem acknowledgeResync_ctl_evt (s : State) : (acknowledgeResync s).ctl.evt = s.ctl.evt &&& 0b110#3 := rfl
@[simp] theorem acknowledgeResync_ctl_evtEn (s : State) : (acknowledgeResync s).ctl.evtEn = s.ctl.evtEn := rfl
@[simp] theorem acknowledgeResync_rsu (s : State) : (acknowledgeResync s).rsu = s.rsu := rfl
@[simp] theorem acknowledgeResync_fmu (s : State) : (acknowledgeResync s).fmu = s.fmu := rfl
@[simp] theorem acknowledgeResync_apc (s : State) : (acknowledgeResync s).apc = s.apc := rfl
@[simp] theorem acknowledgeResync_csu_histWin (s : State) : (acknowledgeResync s).csu.histWin = s.csu.histWin := rfl
@[simp] theorem acknowledgeResync_csu_resyncN (s : State) : (acknowledgeResync s).csu.resyncN = s.csu.resyncN := rfl
@[simp] theorem acknowledgeResync_csu_offset (s : State) : (acknowledgeResync s).csu.offset = s.csu.offset := rfl
@[simp] theorem acknowledgeResync_csu_rate (s : State) : (acknowledgeResync s).csu.rate = s.csu.rate := rfl
@[simp] theorem acknowledgeResync_csu_noMatch (s : State) : (acknowledgeResync s).csu.noMatch = 0 := rfl
@[simp] theorem acknowledgeResync_csu_mPrev (s : State) : (acknowledgeResync s).csu.mPrev = s.csu.mPrev := rfl
@[simp] theorem acknowledgeResync_csu_tPrev (s : State) : (acknowledgeResync s).csu.tPrev = s.csu.tPrev := rfl
@[simp] theorem acknowledgeResync_csu_havePrev (s : State) : (acknowledgeResync s).csu.havePrev = false := rfl
@[simp] theorem acknowledgeResync_csu_vh (s : State) : (acknowledgeResync s).csu.vh = [] := rfl
@[simp] theorem acknowledgeResync_csu_ah (s : State) : (acknowledgeResync s).csu.ah = [] := rfl
@[simp] theorem acknowledgeResync_inputs (s : State) : (acknowledgeResync s).inputs = s.inputs := rfl
@[simp] theorem acknowledgeResync_rsp (s : State) : (acknowledgeResync s).rsp = s.rsp := rfl
@[simp] theorem acknowledgeResync_draws (s : State) : (acknowledgeResync s).draws = s.draws := rfl

/-! ### `storeBlock` -/

@[simp] theorem storeBlock_ctl (syms : List Sym) (marks : List Bool) (s : State) : (storeBlock syms marks s).ctl = s.ctl := rfl
@[simp] theorem storeBlock_rsu_rsRpct (syms : List Sym) (marks : List Bool) (s : State) : (storeBlock syms marks s).rsu.rsRpct = s.rsu.rsRpct := rfl
@[simp] theorem storeBlock_rsu_ilvD (syms : List Sym) (marks : List Bool) (s : State) : (storeBlock syms marks s).rsu.ilvD = s.rsu.ilvD := rfl
@[simp] theorem storeBlock_rsu_cwLen (syms : List Sym) (marks : List Bool) (s : State) : (storeBlock syms marks s).rsu.cwLen = s.rsu.cwLen := rfl
@[simp] theorem storeBlock_rsu_cwOk (syms : List Sym) (marks : List Bool) (s : State) : (storeBlock syms marks s).rsu.cwOk = s.rsu.cwOk := rfl
@[simp] theorem storeBlock_rsu_ilv (syms : List Sym) (marks : List Bool) (s : State) : (storeBlock syms marks s).rsu.ilv = s.rsu.ilv := rfl
@[simp] theorem storeBlock_rsu_errCnt (syms : List Sym) (marks : List Bool) (s : State) : (storeBlock syms marks s).rsu.errCnt = s.rsu.errCnt := rfl
@[simp] theorem storeBlock_rsu_eraCnt (syms : List Sym) (marks : List Bool) (s : State) : (storeBlock syms marks s).rsu.eraCnt = s.rsu.eraCnt := rfl
@[simp] theorem storeBlock_rsu_lastK (syms : List Sym) (marks : List Bool) (s : State) : (storeBlock syms marks s).rsu.lastK = s.rsu.lastK := rfl
@[simp] theorem storeBlock_rsu_lastP (syms : List Sym) (marks : List Bool) (s : State) : (storeBlock syms marks s).rsu.lastP = s.rsu.lastP := rfl
@[simp] theorem storeBlock_rsu_cw (syms : List Sym) (marks : List Bool) (s : State) : (storeBlock syms marks s).rsu.cw = Mem.writeList s.rsu.cw 0 syms := rfl
@[simp] theorem storeBlock_rsu_era (syms : List Sym) (marks : List Bool) (s : State) : (storeBlock syms marks s).rsu.era = Mem.writeList s.rsu.era 0 (marks.map BitVec.ofBool) := rfl
@[simp] theorem storeBlock_fmu (syms : List Sym) (marks : List Bool) (s : State) : (storeBlock syms marks s).fmu = s.fmu := rfl
@[simp] theorem storeBlock_apc (syms : List Sym) (marks : List Bool) (s : State) : (storeBlock syms marks s).apc = s.apc := rfl
@[simp] theorem storeBlock_csu (syms : List Sym) (marks : List Bool) (s : State) : (storeBlock syms marks s).csu = s.csu := rfl
@[simp] theorem storeBlock_inputs (syms : List Sym) (marks : List Bool) (s : State) : (storeBlock syms marks s).inputs = s.inputs := rfl
@[simp] theorem storeBlock_rsp (syms : List Sym) (marks : List Bool) (s : State) : (storeBlock syms marks s).rsp = s.rsp := rfl
@[simp] theorem storeBlock_draws (syms : List Sym) (marks : List Bool) (s : State) : (storeBlock syms marks s).draws = s.draws := rfl

/-! ### `recordScore` -/

@[simp] theorem recordScore_ctl (g : Geom) (s : State) : (recordScore g s).ctl = s.ctl := rfl
@[simp] theorem recordScore_rsu (g : Geom) (s : State) : (recordScore g s).rsu = s.rsu := rfl
@[simp] theorem recordScore_fmu_gridN (g : Geom) (s : State) : (recordScore g s).fmu.gridN = s.fmu.gridN := rfl
@[simp] theorem recordScore_fmu_palBits (g : Geom) (s : State) : (recordScore g s).fmu.palBits = s.fmu.palBits := rfl
@[simp] theorem recordScore_fmu_findTol (g : Geom) (s : State) : (recordScore g s).fmu.findTol = s.fmu.findTol := rfl
@[simp] theorem recordScore_fmu_hdrFrameId (g : Geom) (s : State) : (recordScore g s).fmu.hdrFrameId = s.fmu.hdrFrameId := rfl
@[simp] theorem recordScore_fmu_hdrTotal (g : Geom) (s : State) : (recordScore g s).fmu.hdrTotal = s.fmu.hdrTotal := rfl
@[simp] theorem recordScore_fmu_hdrPaylen (g : Geom) (s : State) : (recordScore g s).fmu.hdrPaylen = s.fmu.hdrPaylen := rfl
@[simp] theorem recordScore_fmu_hdrCksum (g : Geom) (s : State) : (recordScore g s).fmu.hdrCksum = s.fmu.hdrCksum := rfl
@[simp] theorem recordScore_fmu_frParlen (g : Geom) (s : State) : (recordScore g s).fmu.frParlen = s.fmu.frParlen := rfl
@[simp] theorem recordScore_fmu_fbLen (g : Geom) (s : State) : (recordScore g s).fmu.fbLen = s.fmu.fbLen := rfl
@[simp] theorem recordScore_fmu_frScore (g : Geom) (s : State) : (recordScore g s).fmu.frScore = BitVec.ofNat 16 (score g s) := rfl
@[simp] theorem recordScore_fmu_frRcnt (g : Geom) (s : State) : (recordScore g s).fmu.frRcnt = BitVec.ofNat 16 (rcnt g) := rfl
@[simp] theorem recordScore_fmu_parseState (g : Geom) (s : State) : (recordScore g s).fmu.parseState = s.fmu.parseState := rfl
@[simp] theorem recordScore_fmu_grid (g : Geom) (s : State) : (recordScore g s).fmu.grid = s.fmu.grid := rfl
@[simp] theorem recordScore_fmu_tmpl (g : Geom) (s : State) : (recordScore g s).fmu.tmpl = s.fmu.tmpl := rfl
@[simp] theorem recordScore_fmu_fbuf (g : Geom) (s : State) : (recordScore g s).fmu.fbuf = s.fmu.fbuf := rfl
@[simp] theorem recordScore_apc (g : Geom) (s : State) : (recordScore g s).apc = s.apc := rfl
@[simp] theorem recordScore_csu (g : Geom) (s : State) : (recordScore g s).csu = s.csu := rfl
@[simp] theorem recordScore_inputs (g : Geom) (s : State) : (recordScore g s).inputs = s.inputs := rfl
@[simp] theorem recordScore_rsp (g : Geom) (s : State) : (recordScore g s).rsp = s.rsp := rfl
@[simp] theorem recordScore_draws (g : Geom) (s : State) : (recordScore g s).draws = s.draws := rfl

/-! ### `enterStage` -/

@[simp] theorem enterStage_ctl (st : ParseStage) (s : State) : (enterStage st s).ctl = s.ctl := rfl
@[simp] theorem enterStage_rsu (st : ParseStage) (s : State) : (enterStage st s).rsu = s.rsu := rfl
@[simp] theorem enterStage_fmu_gridN (st : ParseStage) (s : State) : (enterStage st s).fmu.gridN = s.fmu.gridN := rfl
@[simp] theorem enterStage_fmu_palBits (st : ParseStage) (s : State) : (enterStage st s).fmu.palBits = s.fmu.palBits := rfl
@[simp] theorem enterStage_fmu_findTol (st : ParseStage) (s : State) : (enterStage st s).fmu.findTol = s.fmu.findTol := rfl
@[simp] theorem enterStage_fmu_hdrFrameId (st : ParseStage) (s : State) : (enterStage st s).fmu.hdrFrameId = s.fmu.hdrFrameId := rfl
@[simp] theorem enterStage_fmu_hdrTotal (st : ParseStage) (s : State) : (enterStage st s).fmu.hdrTotal = s.fmu.hdrTotal := rfl
@[simp] theorem enterStage_fmu_hdrPaylen (st : ParseStage) (s : State) : (enterStage st s).fmu.hdrPaylen = s.fmu.hdrPaylen := rfl
@[simp] theorem enterStage_fmu_hdrCksum (st : ParseStage) (s : State) : (enterStage st s).fmu.hdrCksum = s.fmu.hdrCksum := rfl
@[simp] theorem enterStage_fmu_frParlen (st : ParseStage) (s : State) : (enterStage st s).fmu.frParlen = s.fmu.frParlen := rfl
@[simp] theorem enterStage_fmu_fbLen (st : ParseStage) (s : State) : (enterStage st s).fmu.fbLen = s.fmu.fbLen := rfl
@[simp] theorem enterStage_fmu_frScore (st : ParseStage) (s : State) : (enterStage st s).fmu.frScore = s.fmu.frScore := rfl
@[simp] theorem enterStage_fmu_frRcnt (st : ParseStage) (s : State) : (enterStage st s).fmu.frRcnt = s.fmu.frRcnt := rfl
@[simp] theorem enterStage_fmu_parseState (st : ParseStage) (s : State) : (enterStage st s).fmu.parseState = st := rfl
@[simp] theorem enterStage_fmu_grid (st : ParseStage) (s : State) : (enterStage st s).fmu.grid = s.fmu.grid := rfl
@[simp] theorem enterStage_fmu_tmpl (st : ParseStage) (s : State) : (enterStage st s).fmu.tmpl = s.fmu.tmpl := rfl
@[simp] theorem enterStage_fmu_fbuf (st : ParseStage) (s : State) : (enterStage st s).fmu.fbuf = s.fmu.fbuf := rfl
@[simp] theorem enterStage_apc (st : ParseStage) (s : State) : (enterStage st s).apc = s.apc := rfl
@[simp] theorem enterStage_csu (st : ParseStage) (s : State) : (enterStage st s).csu = s.csu := rfl
@[simp] theorem enterStage_inputs (st : ParseStage) (s : State) : (enterStage st s).inputs = s.inputs := rfl
@[simp] theorem enterStage_rsp (st : ParseStage) (s : State) : (enterStage st s).rsp = s.rsp := rfl
@[simp] theorem enterStage_draws (st : ParseStage) (s : State) : (enterStage st s).draws = s.draws := rfl

/-! ### `evict` -/

@[simp] theorem evict_ctl (ts : BitVec 32) (s : State) : (evict ts s).ctl = s.ctl := rfl
@[simp] theorem evict_rsu (ts : BitVec 32) (s : State) : (evict ts s).rsu = s.rsu := rfl
@[simp] theorem evict_fmu (ts : BitVec 32) (s : State) : (evict ts s).fmu = s.fmu := rfl
@[simp] theorem evict_apc (ts : BitVec 32) (s : State) : (evict ts s).apc = s.apc := rfl
@[simp] theorem evict_csu_histWin (ts : BitVec 32) (s : State) : (evict ts s).csu.histWin = s.csu.histWin := rfl
@[simp] theorem evict_csu_resyncN (ts : BitVec 32) (s : State) : (evict ts s).csu.resyncN = s.csu.resyncN := rfl
@[simp] theorem evict_csu_offset (ts : BitVec 32) (s : State) : (evict ts s).csu.offset = s.csu.offset := rfl
@[simp] theorem evict_csu_rate (ts : BitVec 32) (s : State) : (evict ts s).csu.rate = s.csu.rate := rfl
@[simp] theorem evict_csu_noMatch (ts : BitVec 32) (s : State) : (evict ts s).csu.noMatch = s.csu.noMatch := rfl
@[simp] theorem evict_csu_mPrev (ts : BitVec 32) (s : State) : (evict ts s).csu.mPrev = s.csu.mPrev := rfl
@[simp] theorem evict_csu_tPrev (ts : BitVec 32) (s : State) : (evict ts s).csu.tPrev = s.csu.tPrev := rfl
@[simp] theorem evict_csu_havePrev (ts : BitVec 32) (s : State) : (evict ts s).csu.havePrev = s.csu.havePrev := rfl
@[simp] theorem evict_csu_vh (ts : BitVec 32) (s : State) : (evict ts s).csu.vh = evictList s.csu.histWin ts s.csu.vh := rfl
@[simp] theorem evict_csu_ah (ts : BitVec 32) (s : State) : (evict ts s).csu.ah = evictList s.csu.histWin ts s.csu.ah := rfl
@[simp] theorem evict_inputs (ts : BitVec 32) (s : State) : (evict ts s).inputs = s.inputs := rfl
@[simp] theorem evict_rsp (ts : BitVec 32) (s : State) : (evict ts s).rsp = s.rsp := rfl
@[simp] theorem evict_draws (ts : BitVec 32) (s : State) : (evict ts s).draws = s.draws := rfl

/-! ### `estimate` -/

@[simp] theorem estimate_ctl (m : Int) (vts : BitVec 32) (s : State) : (estimate m vts s).ctl = s.ctl := rfl
@[simp] theorem estimate_rsu (m : Int) (vts : BitVec 32) (s : State) : (estimate m vts s).rsu = s.rsu := rfl
@[simp] theorem estimate_fmu (m : Int) (vts : BitVec 32) (s : State) : (estimate m vts s).fmu = s.fmu := rfl
@[simp] theorem estimate_apc (m : Int) (vts : BitVec 32) (s : State) : (estimate m vts s).apc = s.apc := rfl
@[simp] theorem estimate_csu_histWin (m : Int) (vts : BitVec 32) (s : State) : (estimate m vts s).csu.histWin = s.csu.histWin := rfl
@[simp] theorem estimate_csu_resyncN (m : Int) (vts : BitVec 32) (s : State) : (estimate m vts s).csu.resyncN = s.csu.resyncN := rfl
@[simp] theorem estimate_csu_offset (m : Int) (vts : BitVec 32) (s : State) : (estimate m vts s).csu.offset = offsetUpdate s.csu.offset m := rfl
@[simp] theorem estimate_csu_rate (m : Int) (vts : BitVec 32) (s : State) : (estimate m vts s).csu.rate = rateUpdate s.csu m vts := rfl
@[simp] theorem estimate_csu_noMatch (m : Int) (vts : BitVec 32) (s : State) : (estimate m vts s).csu.noMatch = 0 := rfl
@[simp] theorem estimate_csu_mPrev (m : Int) (vts : BitVec 32) (s : State) : (estimate m vts s).csu.mPrev = wrap 32 m := rfl
@[simp] theorem estimate_csu_tPrev (m : Int) (vts : BitVec 32) (s : State) : (estimate m vts s).csu.tPrev = vts := rfl
@[simp] theorem estimate_csu_havePrev (m : Int) (vts : BitVec 32) (s : State) : (estimate m vts s).csu.havePrev = true := rfl
@[simp] theorem estimate_csu_vh (m : Int) (vts : BitVec 32) (s : State) : (estimate m vts s).csu.vh = s.csu.vh := rfl
@[simp] theorem estimate_csu_ah (m : Int) (vts : BitVec 32) (s : State) : (estimate m vts s).csu.ah = s.csu.ah := rfl
@[simp] theorem estimate_inputs (m : Int) (vts : BitVec 32) (s : State) : (estimate m vts s).inputs = s.inputs := rfl
@[simp] theorem estimate_rsp (m : Int) (vts : BitVec 32) (s : State) : (estimate m vts s).rsp = s.rsp := rfl
@[simp] theorem estimate_draws (m : Int) (vts : BitVec 32) (s : State) : (estimate m vts s).draws = s.draws := rfl

/-! ### `presentNext` -/

@[simp] theorem presentNext_ctl (s : State) (w : Word64) : (presentNext s w).ctl = s.ctl := rfl
@[simp] theorem presentNext_rsu (s : State) (w : Word64) : (presentNext s w).rsu = s.rsu := rfl
@[simp] theorem presentNext_fmu (s : State) (w : Word64) : (presentNext s w).fmu = s.fmu := rfl
@[simp] theorem presentNext_apc (s : State) (w : Word64) : (presentNext s w).apc = s.apc := rfl
@[simp] theorem presentNext_csu (s : State) (w : Word64) : (presentNext s w).csu = s.csu := rfl
@[simp] theorem presentNext_inputs (s : State) (w : Word64) : (presentNext s w).inputs = .command w :: s.inputs := rfl
@[simp] theorem presentNext_rsp (s : State) (w : Word64) : (presentNext s w).rsp = s.rsp := rfl
@[simp] theorem presentNext_draws (s : State) (w : Word64) : (presentNext s w).draws = s.draws := rfl

/-! ### `splitBlock` -/

@[simp] theorem splitBlock_ctl (n d : Nat) (s : State) : (splitBlock n d s).ctl = s.ctl := rfl
@[simp] theorem splitBlock_fmu (n d : Nat) (s : State) : (splitBlock n d s).fmu = s.fmu := rfl
@[simp] theorem splitBlock_apc (n d : Nat) (s : State) : (splitBlock n d s).apc = s.apc := rfl
@[simp] theorem splitBlock_csu (n d : Nat) (s : State) : (splitBlock n d s).csu = s.csu := rfl
@[simp] theorem splitBlock_inputs (n d : Nat) (s : State) : (splitBlock n d s).inputs = s.inputs := rfl
@[simp] theorem splitBlock_rsp (n d : Nat) (s : State) : (splitBlock n d s).rsp = s.rsp := rfl
@[simp] theorem splitBlock_draws (n d : Nat) (s : State) : (splitBlock n d s).draws = s.draws := rfl

/-! ### `softResetState` -/

@[simp] theorem softResetState_ctl (s : State) : (softResetState s).ctl = CtlState.reset := rfl
@[simp] theorem softResetState_rsu_cw (s : State) : (softResetState s).rsu.cw = s.rsu.cw := rfl
@[simp] theorem softResetState_rsu_era (s : State) : (softResetState s).rsu.era = s.rsu.era := rfl
@[simp] theorem softResetState_rsu_cwLen (s : State) : (softResetState s).rsu.cwLen = 0 := rfl
@[simp] theorem softResetState_rsu_cwOk (s : State) : (softResetState s).rsu.cwOk = false := rfl
@[simp] theorem softResetState_rsu_ilv (s : State) : (softResetState s).rsu.ilv = false := rfl
@[simp] theorem softResetState_fmu_grid (s : State) : (softResetState s).fmu.grid = s.fmu.grid := rfl
@[simp] theorem softResetState_fmu_tmpl (s : State) : (softResetState s).fmu.tmpl = s.fmu.tmpl := rfl
@[simp] theorem softResetState_fmu_fbuf (s : State) : (softResetState s).fmu.fbuf = s.fmu.fbuf := rfl
@[simp] theorem softResetState_apc_abuf (s : State) : (softResetState s).apc.abuf = s.apc.abuf := rfl
@[simp] theorem softResetState_apc_ptmpl (s : State) : (softResetState s).apc.ptmpl = s.apc.ptmpl := rfl
@[simp] theorem softResetState_csu (s : State) : (softResetState s).csu = CsuState.reset := rfl
@[simp] theorem softResetState_inputs (s : State) : (softResetState s).inputs = s.inputs := rfl
@[simp] theorem softResetState_rsp (s : State) : (softResetState s).rsp = s.rsp := rfl
@[simp] theorem softResetState_draws (s : State) : (softResetState s).draws = s.draws := rfl

/-! ### `hardReset` -/

@[simp] theorem hardReset_ctl (s : State) : (hardReset s).ctl = CtlState.reset := rfl
@[simp] theorem hardReset_rsu (s : State) : (hardReset s).rsu = RsuState.reset := rfl
@[simp] theorem hardReset_fmu (s : State) : (hardReset s).fmu = FmuState.reset := rfl
@[simp] theorem hardReset_apc (s : State) : (hardReset s).apc = ApcState.reset := rfl
@[simp] theorem hardReset_csu (s : State) : (hardReset s).csu = CsuState.reset := rfl
@[simp] theorem hardReset_inputs (s : State) : (hardReset s).inputs = s.inputs := rfl
@[simp] theorem hardReset_rsp (s : State) : (hardReset s).rsp = none := rfl
@[simp] theorem hardReset_draws (s : State) : (hardReset s).draws = s.draws + 1 := rfl

end Sys2Proof.Machine
end

