-- ==== Sys2Proof/Laws/Ops.lean ====
section
/-! SUPPORT. For each shared operation, once, everything it can do. -/

namespace Sys2Proof.Machine

open Sys2Proof.Safety

/-- Ending a command changes `STATUS`, the response port and the model's counter, and nothing else (00_scope.md R13). -/
theorem respond_eq_settled (st : OutcomeCode) (ra : BitVec 24) (rb : BitVec 32) (s : State) :
    respond st ra rb s = settled (codeOf st) ra rb s := rfl

/-- Taking an exception changes no more than ending a command does (60_exceptions.md R312). -/
theorem raise_eq_settled (st : OutcomeCode) (ra : BitVec 24) (rb : BitVec 32) (s : State) :
    raise st ra rb s = settled (codeOf st) ra rb s := rfl

/-- The code of an outcome the block raises is one of those it produces, unless it is one of the host's two. -/
theorem codeOf_produced (st : OutcomeCode) (h1 : st ≠ .crcMismatch) (h2 : st ≠ .sessionAborted) :
    codeOf st ∈ producedCodes := by cases st <;> simp_all [codeOf, producedCodes]

/-- The next input is the head of what the host has presented, and taking it changes nothing else. -/
theorem fetch_cons (x : HostInput) (rest : List HostInput) (s : State) (h : s.inputs = x :: rest) :
    fetch s = some (x, { s with inputs := rest }) := by simp [fetch, h]

/-- Nothing presented, nothing fetched. -/
theorem fetch_nil (s : State) (h : s.inputs = []) : fetch s = none := by simp [fetch, h]

/-- A presented word is what the next fetch takes, and the fetch gives the state back. -/
theorem fetch_presentNext (s : State) (w : Word64) : fetch (presentNext s w) = some (.command w, s) := rfl

/-- Setting events: each bit is set if it was or is in the mask. -/
theorem setEvents_bit (bits : BitVec 3) (s : State) (i : Nat) :
    (setEvents bits s).ctl.evt.getLsbD i = (s.ctl.evt.getLsbD i || bits.getLsbD i) := by simp

/-- Clearing overflow events leaves `RESYNC_REQ` alone (40_control_commands.md R134). -/
theorem clearEvents_resyncReq (mask : BitVec 2) (s : State) : resyncReq (clearEvents mask s) = resyncReq s := by
  have h : ∀ m : BitVec 2, (~~~(m ++ 0#1 : BitVec 3)).getLsbD 0 = true := by decide
  simp only [resyncReq, clearEvents, BitVec.getLsbD_and, h, Bool.and_true]

/-- A register write leaves the memories, the histories, the ports and the model's counter alone. -/
theorem writeReg_frame (s : State) (r : Reg) (v : BitVec 32) :
    sameBuffers s (writeReg s r v) ∧ (writeReg s r v).rsp = s.rsp ∧ (writeReg s r v).draws = s.draws
      ∧ (writeReg s r v).ctl.status = s.ctl.status ∧ (writeReg s r v).ctl.evt = s.ctl.evt := by
  cases r <;> simp [writeReg, sameBuffers]

/-- A register other than the one written reads as before. -/
theorem readReg_writeReg_ne (s : State) (r q : Reg) (v : BitVec 32) (h : q ≠ r) :
    readReg (writeReg s r v) q = readReg s q := by
  cases r <;> first | rfl | (cases q <;> first | rfl | exact absurd rfl h)

/-- Reading an element depends on the memory and the model's counter alone. -/
theorem readCell_congr {w : Nat} (space : Space) (s t : State) (m : Mem w) (i : Nat) (h : s.draws = t.draws) :
    readCell space s m i = readCell space t m i := by simp [readCell, h]

/-- Making room in the visual history: the oldest goes and the event is set where it is full, nothing happens elsewhere. -/
theorem makeRoomV_cases (s : State) :
    (isFull s.csu.vh = true ∧ makeRoomV s
      = setEvents 0b010 { s with csu := { s.csu with vh := s.csu.vh.tail } })
      ∨ (isFull s.csu.vh = false ∧ makeRoomV s = s) := by
  unfold makeRoomV; cases h : isFull s.csu.vh <;> simp

/-- Making room in the audio history: the oldest goes and the event is set where it is full, nothing happens elsewhere. -/
theorem makeRoomA_cases (s : State) :
    (isFull s.csu.ah = true ∧ makeRoomA s
      = setEvents 0b100 { s with csu := { s.csu with ah := s.csu.ah.tail } })
      ∨ (isFull s.csu.ah = false ∧ makeRoomA s = s) := by
  unfold makeRoomA; cases h : isFull s.csu.ah <;> simp

/-- Marking an entry used keeps the ids and their order. -/
theorem markUsed_ids (id : BitVec 24) (h : List HistEntry) :
    (markUsed id h).map HistEntry.id = h.map HistEntry.id := by
  induction h with
  | nil => rfl
  | cons e h ih => unfold markUsed; split <;> simp [ih]

/-- Eviction keeps exactly the entries that are not older than the window (44_channel_sync.md R272). -/
theorem mem_evictList (win : BitVec 31) (ts : BitVec 32) (h : List HistEntry) (e : HistEntry) :
    e ∈ evictList win ts h ↔ e ∈ h ∧ sdiff32 ts e.ts ≤ (win.toNat : Int) := by
  simp [evictList]

end Sys2Proof.Machine
end

