-- ==== Sys2Proof/Laws/PerInstr.lean ====
section
/-! SUPPORT. The family of claims made command by command: the word a command is encoded as is a legal command word
(30_encoding.md R105 to R107). -/

namespace Sys2Proof

/-- The bits of an assembled word (30_encoding.md R111). -/
theorem commandWord_bit (op : BitVec 8) (a : BitVec 24) (b : BitVec 32) (i : Nat) :
    (commandWord op a b).getLsbD i
      = if i < 32 then b.getLsbD i else if i < 56 then a.getLsbD (i - 32) else op.getLsbD (i - 56) := by
  have h : (commandWord op a b).getLsbD i = (op ++ a ++ b : BitVec (8 + 24 + 32)).getLsbD i := rfl
  rw [h, BitVec.getLsbD_append, BitVec.getLsbD_append]
  by_cases h1 : i < 32
  · simp [h1]
  · by_cases h2 : i < 56
    · simp [h1, h2, show i - 32 < 24 by omega]
    · simp [h1, h2, show ¬ i - 32 < 24 by omega, show i - 32 - 24 = i - 56 by omega]

/-- The opcode of an assembled word. -/
@[simp] theorem commandWord_op (op : BitVec 8) (a : BitVec 24) (b : BitVec 32) :
    (commandWord op a b).extractLsb' 56 8 = op := by
  apply BitVec.eq_of_getLsbD_eq; intro i hi
  rw [BitVec.getLsbD_extractLsb', commandWord_bit]
  simp [hi, show ¬ 56 + i < 32 by omega]

/-- The operand `A` of an assembled word. -/
@[simp] theorem commandWord_a (op : BitVec 8) (a : BitVec 24) (b : BitVec 32) :
    (commandWord op a b).extractLsb' 32 24 = a := by
  apply BitVec.eq_of_getLsbD_eq; intro i hi
  rw [BitVec.getLsbD_extractLsb', commandWord_bit]
  simp [hi, show 32 + i < 56 by omega]

/-- The operand `B` of an assembled word. -/
@[simp] theorem commandWord_b (op : BitVec 8) (a : BitVec 24) (b : BitVec 32) :
    (commandWord op a b).extractLsb' 0 32 = b := by
  apply BitVec.eq_of_getLsbD_eq; intro i hi
  rw [BitVec.getLsbD_extractLsb', commandWord_bit]
  simp [hi]

namespace Laws.EncodeLegal

/-- The encoder sets no reserved bit and no reserved opcode. -/
def Statement (i : Instr) : Prop := legalWord (encode i) = true

/-- A word is legal when its opcode is assigned and its operands stay below the bits its row uses. -/
theorem legal_of_fields (op : BitVec 8) (a : BitVec 24) (b : BitVec 32)
    (h1 : opcodeAssigned (commandWord op a b) = true) (h2 : a.toNat < 2 ^ usedBitsA op.toNat)
    (h3 : b.toNat < 2 ^ usedBitsB op.toNat) (h4 : op.toNat = 0x04 → b.toNat % 2 = 0)
    (h5 : op.toNat = 0x45 → a.toNat / 4 % 64 = 0) : legalWord (commandWord op a b) = true := by
  simp only [legalWord, h1, reservedBitsZero, commandWord_op, commandWord_a, commandWord_b, Bool.true_and,
    Bool.and_eq_true, decide_eq_true_eq, Bool.not_eq_true', Bool.and_eq_false_iff, decide_eq_false_iff_not]
  refine ⟨⟨⟨h2, h3⟩, ?_⟩, ?_⟩
  · by_cases h : op.toNat = 4
    · right; have := h4 h; omega
    · left; exact h
  · by_cases h : op.toNat = 0x45
    · right; simpa using h5 h
    · left; exact h

/-- A zero-extended operand is below the bound its width sets. -/
theorem setWidth_lt {n m : Nat} (x : BitVec n) (k : Nat) (h : n ≤ k) : (x.setWidth m).toNat < 2 ^ k :=
  Nat.lt_of_le_of_lt (by rw [BitVec.toNat_setWidth]; exact Nat.mod_le _ _)
    (Nat.lt_of_lt_of_le x.isLt (Nat.pow_le_pow_right (by omega) h))

theorem nop : Statement .nop :=
    legal_of_fields _ _ _ (by simp [opcodeAssigned]) (by decide) (by decide) (fun h => absurd h (by decide))
    (fun h => absurd h (by decide))

theorem cfgWr (reg : BitVec 8) (val : BitVec 32) : Statement (.cfgWr reg val) :=
    legal_of_fields _ _ _ (by simp [opcodeAssigned]) (setWidth_lt _ _ (by decide)) val.isLt (fun h => absurd h (by decide))
    (fun h => absurd h (by decide))

theorem cfgRd (reg : BitVec 8) : Statement (.cfgRd reg) :=
    legal_of_fields _ _ _ (by simp [opcodeAssigned]) (setWidth_lt _ _ (by decide)) (by decide) (fun h => absurd h (by decide))
    (fun h => absurd h (by decide))

theorem softReset : Statement .softReset :=
    legal_of_fields _ _ _ (by simp [opcodeAssigned]) (by decide) (by decide) (fun h => absurd h (by decide))
    (fun h => absurd h (by decide))

theorem evtClr (mask : BitVec 2) : Statement (.evtClr mask) := by
  refine legal_of_fields _ _ _ (by simp [opcodeAssigned]) (by decide) ?_ (fun _ => ?_) (fun h => absurd h (by decide))
  all_goals revert mask; decide

theorem cwClr : Statement .cwClr :=
    legal_of_fields _ _ _ (by simp [opcodeAssigned]) (by decide) (by decide) (fun h => absurd h (by decide))
    (fun h => absurd h (by decide))

theorem cwPush (sym : BitVec 8) (era : BitVec 1) : Statement (.cwPush sym era) := by
  refine legal_of_fields _ _ _ (by simp [opcodeAssigned]) ?_ (by decide) (fun h => absurd h (by decide))
    (fun h => absurd h (by decide))
  rw [show (0#15 ++ era ++ sym : BitVec 24) = (era ++ sym).setWidth 24 from BitVec.eq_of_getLsbD_eq fun i hi => by
    simp only [BitVec.getLsbD_append, BitVec.getLsbD_setWidth, BitVec.getLsbD_zero, hi, decide_true, Bool.true_and]
    split_ifs <;> first | rfl | exact (BitVec.getLsbD_of_ge _ _ (by omega)).symm]
  exact setWidth_lt _ _ (by decide)

theorem cwRd (idx : BitVec 8) : Statement (.cwRd idx) :=
    legal_of_fields _ _ _ (by simp [opcodeAssigned]) (setWidth_lt _ _ (by decide)) (by decide) (fun h => absurd h (by decide))
    (fun h => absurd h (by decide))

theorem rsEnc (k : BitVec 8) : Statement (.rsEnc k) :=
    legal_of_fields _ _ _ (by simp [opcodeAssigned]) (setWidth_lt _ _ (by decide)) (by decide) (fun h => absurd h (by decide))
    (fun h => absurd h (by decide))

theorem rsDec (k : BitVec 8) : Statement (.rsDec k) :=
    legal_of_fields _ _ _ (by simp [opcodeAssigned]) (setWidth_lt _ _ (by decide)) (by decide) (fun h => absurd h (by decide))
    (fun h => absurd h (by decide))

theorem ilvSplit (k : BitVec 8) : Statement (.ilvSplit k) :=
    legal_of_fields _ _ _ (by simp [opcodeAssigned]) (setWidth_lt _ _ (by decide)) (by decide) (fun h => absurd h (by decide))
    (fun h => absurd h (by decide))

theorem ilvMerge (k : BitVec 8) (lost : BitVec 16) : Statement (.ilvMerge k lost) :=
    legal_of_fields _ _ _ (by simp [opcodeAssigned]) (setWidth_lt _ _ (by decide)) (setWidth_lt _ _ (by decide)) (fun h => absurd h (by decide))
    (fun h => absurd h (by decide))

theorem gridWr (idx : BitVec 16) (val : BitVec 3) : Statement (.gridWr idx val) :=
    legal_of_fields _ _ _ (by simp [opcodeAssigned]) (setWidth_lt _ _ (by decide)) (setWidth_lt _ _ (by decide)) (fun h => absurd h (by decide))
    (fun h => absurd h (by decide))

theorem gridRd (idx : BitVec 16) : Statement (.gridRd idx) :=
    legal_of_fields _ _ _ (by simp [opcodeAssigned]) (setWidth_lt _ _ (by decide)) (by decide) (fun h => absurd h (by decide))
    (fun h => absurd h (by decide))

theorem tmplWr (idx : BitVec 16) (resv : BitVec 1) (tval : BitVec 3) : Statement (.tmplWr idx resv tval) := by
  refine legal_of_fields _ _ _ (by simp [opcodeAssigned]) (setWidth_lt _ _ (by decide)) ?_
    (fun h => absurd h (by decide)) (fun h => absurd h (by decide))
  revert resv tval; decide

theorem tmplRd (idx : BitVec 16) : Statement (.tmplRd idx) :=
    legal_of_fields _ _ _ (by simp [opcodeAssigned]) (setWidth_lt _ _ (by decide)) (by decide) (fun h => absurd h (by decide))
    (fun h => absurd h (by decide))

theorem fbWr (idx : BitVec 16) (val : BitVec 8) : Statement (.fbWr idx val) :=
    legal_of_fields _ _ _ (by simp [opcodeAssigned]) (setWidth_lt _ _ (by decide)) (setWidth_lt _ _ (by decide)) (fun h => absurd h (by decide))
    (fun h => absurd h (by decide))

theorem fbRd (idx : BitVec 16) : Statement (.fbRd idx) :=
    legal_of_fields _ _ _ (by simp [opcodeAssigned]) (setWidth_lt _ _ (by decide)) (by decide) (fun h => absurd h (by decide))
    (fun h => absurd h (by decide))

theorem frDetect : Statement .frDetect :=
    legal_of_fields _ _ _ (by simp [opcodeAssigned]) (by decide) (by decide) (fun h => absurd h (by decide))
    (fun h => absurd h (by decide))

theorem frParse : Statement .frParse :=
    legal_of_fields _ _ _ (by simp [opcodeAssigned]) (by decide) (by decide) (fun h => absurd h (by decide))
    (fun h => absurd h (by decide))

theorem frFormat : Statement .frFormat :=
    legal_of_fields _ _ _ (by simp [opcodeAssigned]) (by decide) (by decide) (fun h => absurd h (by decide))
    (fun h => absurd h (by decide))

theorem abWr (idx : BitVec 16) (val : BitVec 16) : Statement (.abWr idx val) :=
    legal_of_fields _ _ _ (by simp [opcodeAssigned]) (setWidth_lt _ _ (by decide)) (setWidth_lt _ _ (by decide)) (fun h => absurd h (by decide))
    (fun h => absurd h (by decide))

theorem abRd (idx : BitVec 16) : Statement (.abRd idx) :=
    legal_of_fields _ _ _ (by simp [opcodeAssigned]) (setWidth_lt _ _ (by decide)) (by decide) (fun h => absurd h (by decide))
    (fun h => absurd h (by decide))

theorem ptWr (idx : BitVec 16) (val : BitVec 16) : Statement (.ptWr idx val) :=
    legal_of_fields _ _ _ (by simp [opcodeAssigned]) (setWidth_lt _ _ (by decide)) (setWidth_lt _ _ (by decide)) (fun h => absurd h (by decide))
    (fun h => absurd h (by decide))

theorem ptRd (idx : BitVec 16) : Statement (.ptRd idx) :=
    legal_of_fields _ _ _ (by simp [opcodeAssigned]) (setWidth_lt _ _ (by decide)) (by decide) (fun h => absurd h (by decide))
    (fun h => absurd h (by decide))

theorem auCorr : Statement .auCorr :=
    legal_of_fields _ _ _ (by simp [opcodeAssigned]) (by decide) (by decide) (fun h => absurd h (by decide))
    (fun h => absurd h (by decide))

theorem csObserveV (id : BitVec 24) (ts : BitVec 32) : Statement (.csObserveV id ts) :=
    legal_of_fields _ _ _ (by simp [opcodeAssigned]) id.isLt ts.isLt (fun h => absurd h (by decide))
    (fun h => absurd h (by decide))

theorem csObserveA (id : BitVec 24) (ts : BitVec 32) : Statement (.csObserveA id ts) :=
    legal_of_fields _ _ _ (by simp [opcodeAssigned]) id.isLt ts.isLt (fun h => absurd h (by decide))
    (fun h => absurd h (by decide))

theorem csDrift (sel : BitVec 2) : Statement (.csDrift sel) :=
    legal_of_fields _ _ _ (by simp [opcodeAssigned]) (setWidth_lt _ _ (by decide)) (by decide) (fun h => absurd h (by decide))
    (fun h => absurd h (by decide))

theorem csAlign (ts : BitVec 32) : Statement (.csAlign ts) :=
    legal_of_fields _ _ _ (by simp [opcodeAssigned]) (by decide) ts.isLt (fun h => absurd h (by decide))
    (fun h => absurd h (by decide))

theorem csResync : Statement .csResync :=
    legal_of_fields _ _ _ (by simp [opcodeAssigned]) (by decide) (by decide) (fun h => absurd h (by decide))
    (fun h => absurd h (by decide))

theorem csHistRd (ch : BitVec 1) (sel : BitVec 1) (idx : BitVec 8) : Statement (.csHistRd ch sel idx) := by
  refine legal_of_fields _ _ _ (by simp [opcodeAssigned]) ?_ (by decide) (fun h => absurd h (by decide)) (fun _ => ?_)
  all_goals revert ch sel; revert idx; decide +kernel

end Laws.EncodeLegal
end Sys2Proof
end

