-- ==== Sys2Proof/Tests/Slice0.lean ====
section
/-! SUPPORT. The model's own tests. Words and results come from 95_test_vectors.md (its section is named) and from the examples in
the rules; the witnesses show, for each statement with hypotheses, a state and operands that meet them, clause by clause and at
the boundary values. -/

namespace Sys2Proof.Tests

open Sys2Proof Sys2Proof.Machine Sys2Proof.Safety

-- One theorem after the other: side by side, these kernel evaluations ask for more threads than the memory limit allows.
set_option Elab.async false

/-! ### Helpers -/

/-- `ST`, `RA`, `RB` of the response a command gives. -/
def answer (i : Instr) (s : State) : Option (Nat × Nat × Nat) :=
  match exec i s with
  | .next t => t.rsp.map fun w =>
      ((w.extractLsb' 56 8).toNat, (w.extractLsb' 32 24).toNat, (w.extractLsb' 0 32).toNat)
  | _ => none

/-- The state a command leaves. -/
def ranTo (i : Instr) (s : State) : State :=
  match exec i s with
  | .next t => t
  | _ => s

/-- Memory cells from index 0 on. -/
def cells {w : Nat} (vs : List Nat) : Mem w := vs.zipIdx.map fun x => (x.2, BitVec.ofNat w x.1)

/-- Reset state with a codeword buffer holding these symbols and marks. -/
def block (syms marks : List Nat) : State :=
  { State.reset with rsu := { State.reset.rsu with
      cw := cells syms, era := cells marks, cwLen := BitVec.ofNat 9 syms.length } }

/-- The first symbols of the codeword buffer and their marks. -/
def buffer (s : State) : List (Option Nat) × List (Option Nat) :=
  ((List.range s.rsu.cwLen.toNat).map fun j => (Mem.get? s.rsu.cw j).map BitVec.toNat,
    (List.range s.rsu.cwLen.toNat).map fun j => (Mem.get? s.rsu.era j).map BitVec.toNat)

/-- Reset state with another `ILV_D`, `ILV`. -/
def interleaved (d : Nat) (ilv : Bool) (s : State) : State :=
  { s with rsu := { s.rsu with ilvD := BitVec.ofNat 8 d, ilv := ilv } }

/-- Reset state with a grid and template of side `n`, `b` bits per module. -/
def frame (n b tol : Nat) (grid tmpl : List Nat) : State :=
  { State.reset with fmu := { State.reset.fmu with
      gridN := BitVec.ofNat 8 n, palBits := BitVec.ofNat 2 b, findTol := BitVec.ofNat 16 tol, grid := cells grid, tmpl := cells tmpl } }

/-- Reset state with audio buffer, preamble template and threshold. -/
def audio (ab pt : List Int) (thr : Int) : State :=
  { State.reset with apc := { State.reset.apc with
      abuf := ab.zipIdx.map fun x => (x.2, BitVec.ofInt 16 x.1)
      ptmpl := pt.zipIdx.map fun x => (x.2, BitVec.ofInt 16 x.1)
      abLen := BitVec.ofNat 13 ab.length, ptLen := BitVec.ofNat 11 pt.length
      auThreshLo := BitVec.ofInt 32 thr, auThreshHi := BitVec.ofInt 16 (thr / 2 ^ 32) } }

/-- Reset state with these histories. -/
def seen (vh ah : List HistEntry) : State := { State.reset with csu := { State.reset.csu with vh := vh, ah := ah } }

/-- 64 entries with ids and timestamps 0 to 63. -/
def fullHistory : List HistEntry :=
  (List.range 64).map fun i => { id := BitVec.ofNat 24 i, ts := BitVec.ofNat 32 i, used := false }

/-- The example codeword of 41_rs_fec.md R163. -/
def en1 : List Nat := [0x01, 0x02, 0x03, 0x04, 0x79, 0x87, 0xFA]

/-- 95_test_vectors.md section 4.1: the border is reserved, 3 where `x + y` is even and 0 where it is odd. -/
def borderTemplate : List Nat :=
  (List.range 100).map fun i =>
    if i / 10 = 0 ∨ i / 10 = 9 ∨ i % 10 = 0 ∨ i % 10 = 9 then (if (i / 10 + i % 10) % 2 = 0 then 0xB else 0x8) else 0

/-- 95_test_vectors.md section 4.2: the configuration before `FR_FORMAT`. -/
def formatStart : State :=
  let s := frame 10 2 0 [] borderTemplate
  { s with fmu := { s.fmu with
      hdrFrameId := 0x000102, hdrTotal := 3, hdrPaylen := 3, frParlen := 3, fbuf := cells [0x48, 0x44, 0x54, 0x89, 0x87, 0x56] } }

/-- 95_test_vectors.md section 4.2: the grid `FR_FORMAT` produces. -/
def formattedGrid : List Nat :=
  [3, 0, 3, 0, 3, 0, 3, 0, 3, 0] ++ [0, 0, 0, 0, 0, 0, 0, 0, 1, 3] ++ [3, 0, 0, 0, 2, 0, 0, 0, 0, 0]
    ++ [0, 0, 0, 0, 3, 0, 0, 0, 0, 3] ++ [3, 0, 0, 0, 3, 2, 1, 2, 1, 0] ++ [0, 3, 1, 3, 2, 1, 0, 2, 0, 3]
    ++ [3, 1, 0, 1, 0, 1, 1, 1, 0, 0] ++ [0, 2, 0, 2, 1, 2, 0, 1, 3, 3] ++ [3, 1, 1, 1, 2, 0, 0, 0, 0, 0]
    ++ [0, 3, 0, 3, 0, 3, 0, 3, 0, 3]

/-- The received candidate of 95_test_vectors.md section 4.3, `i`-th module replaced by `v`. -/
def candidate (tol : Nat) (changes : List (Nat × Nat)) : State :=
  frame 10 2 tol (changes.foldl (fun g c => g.set c.1 c.2) formattedGrid) borderTemplate

/-! ### Well-formedness: each check refuses an ill-formed word (95_test_vectors.md section 2.1) -/

theorem test_legal_word : legalWord 0x1100014100000000 = true := by decide +kernel

theorem test_reserved_opcode_refused :
    opcodeAssigned 0x0500000000000000 = false
      ∧ opcodeAssigned 0xFF00000000000000 = false
      ∧ legalWord 0x0500000000000000 = false
      ∧ decode 0x0500000000000000 = .error .reservedOpcode := by decide +kernel

theorem test_reserved_bits_refused :
    ([0x0000000000000001, 0x0400000000000001, 0x1100020000000000, 0x1300000000000001, 0x1600000400010000,
      0x2000006300000008, 0x2200000000000010, 0x3000000000010000, 0x4200000400000000, 0x4500000400000000,
      0x0201000000000000, 0x0300000100000000] : List Word64).all (fun w =>
        decide (opcodeAssigned w = true ∧ reservedBitsZero w = false ∧ legalWord w = false ∧ decode w = .error .reservedBit)) = true := by decide +kernel

/-! ### Decoding: a word of every row of 30_encoding.md R105, from the examples of the rules and 95_test_vectors.md -/

theorem test_decode_control :
    decode 0x0000000000000000 = .ok .nop
      ∧ decode 0x0100001000000032 = .ok (.cfgWr 0x10 50)
      ∧ decode 0x0200004900000000 = .ok (.cfgRd 0x49)
      ∧ decode 0x0300000000000000 = .ok .softReset
      ∧ decode 0x0400000000000002 = .ok (.evtClr 1)
      ∧ decode 0x0400000000000004 = .ok (.evtClr 2) := by decide +kernel

theorem test_decode_rsu :
    decode 0x1000000000000000 = .ok .cwClr
      ∧ decode 0x1100014100000000 = .ok (.cwPush 0x41 1)
      ∧ decode 0x1200000400000000 = .ok (.cwRd 4)
      ∧ decode 0x1300000400000000 = .ok (.rsEnc 4)
      ∧ decode 0x1400000400000000 = .ok (.rsDec 4)
      ∧ decode 0x1500000400000000 = .ok (.ilvSplit 4)
      ∧ decode 0x1600000400000002 = .ok (.ilvMerge 4 2) := by decide +kernel

theorem test_decode_fmu :
    decode 0x2000000B00000002 = .ok (.gridWr 11 2)
      ∧ decode 0x2100000B00000000 = .ok (.gridRd 11)
      ∧ decode 0x220000050000000B = .ok (.tmplWr 5 1 3)
      ∧ decode 0x2300000500000000 = .ok (.tmplRd 5)
      ∧ decode 0x2400000000000048 = .ok (.fbWr 0 0x48)
      ∧ decode 0x2500000000000000 = .ok (.fbRd 0)
      ∧ decode 0x2600000000000000 = .ok .frDetect
      ∧ decode 0x2700000000000000 = .ok .frParse
      ∧ decode 0x2800000000000000 = .ok .frFormat := by decide +kernel

theorem test_decode_apc :
    decode 0x300000030000FFFD = .ok (.abWr 3 0xFFFD)
      ∧ decode 0x3100000300000000 = .ok (.abRd 3)
      ∧ decode 0x320000010000FFFF = .ok (.ptWr 1 0xFFFF)
      ∧ decode 0x3300000100000000 = .ok (.ptRd 1)
      ∧ decode 0x3400000000000000 = .ok .auCorr := by decide +kernel

theorem test_decode_csu :
    decode 0x40000007000F4240 = .ok (.csObserveV 7 1000000)
      ∧ decode 0x41000007000F4628 = .ok (.csObserveA 7 1001000)
      ∧ decode 0x4200000100000000 = .ok (.csDrift 1)
      ∧ decode 0x43000000001E8480 = .ok (.csAlign 2000000)
      ∧ decode 0x4400000000000000 = .ok .csResync
      ∧ decode 0x4500000300000000 = .ok (.csHistRd 1 1 0)
      ∧ decode 0x4500020200000000 = .ok (.csHistRd 0 1 2) := by decide +kernel

theorem test_table_word :
    decodeTableWord 64 0x1300000400000000 = some (.rsEnc 4) ∧ decodeTableWord 64 0x0500000000000000 = none := by decide +kernel

theorem test_step_runs_the_fetched_word :
    (match step (State.reset.withFetchWord 64 0x0200000000000000) with
      | .next t => t.rsp
      | _ => none) = some 0x0000000048445407 := by decide +kernel

/-! ### Control commands (95_test_vectors.md section 2.2) -/

theorem test_nop_hides_status :
    answer .nop State.reset = some (0, 0, 0)
      ∧ (ranTo .nop (ranTo (.cfgWr 0x10 24) State.reset)).ctl.status = 0 ∧ (ranTo (.cfgWr 0x10 24) State.reset).ctl.status = 0x12 := by decide +kernel

theorem test_cfg_wr_answers :
    answer (.cfgWr 0x00 1) State.reset = some (0x11, 0, 0)
      ∧ answer (.cfgWr 0x05 0) State.reset = some (0x11, 0, 0)
      ∧ answer (.cfgWr 0x21 0x102) State.reset = some (0x12, 0, 0)
      ∧ answer (.cfgWr 0x10 50) State.reset = some (0, 0, 0) := by decide +kernel

theorem test_cfg_wr_is_read_back :
    answer (.cfgRd 0x10) (ranTo (.cfgWr 0x10 50) State.reset) = some (0, 0, 50) := by decide +kernel

theorem test_cfg_rd_id :
    answer (.cfgRd 0x00) State.reset = some (0, 0, 0x48445407) ∧ answer (.cfgRd 0x49) State.reset = some (0x11, 0, 0) := by decide +kernel

theorem test_cfg_rd_status_is_the_previous :
    answer (.cfgRd 0x01) (ranTo (.cfgWr 0x00 1) State.reset) = some (0, 0, 0x11) := by decide +kernel

theorem test_soft_reset_keeps_cells :
    (ranTo .softReset (block en1 [0, 0, 0, 0, 0, 0, 0])).rsu
      = { State.reset.rsu with cw := cells en1, era := cells [0, 0, 0, 0, 0, 0, 0] } := by decide +kernel

theorem test_evt_clr :
    answer (.evtClr 1) { State.reset with ctl := { State.reset.ctl with evt := 0b110 } } = some (0, 0, 0b100)
      ∧ answer (.evtClr 3) { State.reset with ctl := { State.reset.ctl with evt := 0b111 } } = some (0, 0, 0b001) := by decide +kernel

/-! ### Reed-Solomon unit (95_test_vectors.md sections 3.3 to 3.5) -/

theorem test_cw_clr : (ranTo .cwClr (block en1 [])).rsu.cwLen = 0 := by decide +kernel

theorem test_cw_push :
    answer (.cwPush 0x41 1) State.reset = some (0, 0, 1)
      ∧ buffer (ranTo (.cwPush 0x41 1) State.reset) = ([some 0x41], [some 1]) := by decide +kernel

theorem test_cw_push_full :
    answer (.cwPush 0 0) { State.reset with rsu := { State.reset.rsu with cwLen := 255 } } = some (1, 0, 0)
      ∧ (ranTo (.cwPush 0 0) { State.reset with rsu := { State.reset.rsu with cwLen := 255 } }).rsu.cwLen = 256 := by decide +kernel

theorem test_cw_rd :
    answer (.cwRd 4) (block en1 [0, 0, 0, 0, 1, 0, 0]) = some (0, 0, 0x179)
      ∧ answer (.cwRd 7) (block en1 [0, 0, 0, 0, 0, 0, 0]) = some (0x11, 0, 0) := by decide +kernel

theorem test_rs_enc :
    answer (.rsEnc 4) (block [1, 2, 3, 4] [0, 1, 0, 0]) = some (0, 3, 7)
      ∧ buffer (ranTo (.rsEnc 4) (block [1, 2, 3, 4] [0, 1, 0, 0])) = (en1.map some, List.replicate 7 (some 0)) := by decide +kernel

theorem test_rs_enc_wrong_count : answer (.rsEnc 4) (block [1, 2, 3] [0, 0, 0]) = some (1, 0, 0) := by decide +kernel

/-- Row DE6. -/
theorem test_rs_dec_corrects :
    answer (.rsDec 4) (block [0x00, 0x55, 3, 4, 0x79, 0x87, 0xFA] [1, 0, 0, 0, 0, 0, 0]) = some (0, 1, 1)
      ∧ buffer (ranTo (.rsDec 4) (block [0x00, 0x55, 3, 4, 0x79, 0x87, 0xFA] [1, 0, 0, 0, 0, 0, 0]))
        = (en1.map some, List.replicate 7 (some 0)) := by decide +kernel

/-- Row DE3. -/
theorem test_rs_dec_detects :
    answer (.rsDec 4) (block [1, 0xFF, 3, 4, 0x79, 0x00, 0xFA] [0, 0, 0, 0, 0, 0, 0]) = some (2, 0, 0) := by decide +kernel

/-- Row I1. -/
theorem test_ilv_split :
    answer (.ilvSplit 4) (interleaved 3 false (block en1 [0, 0, 0, 0, 0, 0, 0])) = some (0, 3, 3)
      ∧ (buffer (ranTo (.ilvSplit 4) (interleaved 3 false (block en1 [0, 0, 0, 0, 0, 0, 0])))).1
        = [some 0x01, some 0x04, some 0xFA, some 0x02, some 0x79, some 0x03, some 0x87] := by decide +kernel

/-- Row I4. -/
theorem test_ilv_split_depth :
    answer (.ilvSplit 4) (interleaved 2 false (block en1 [0, 0, 0, 0, 0, 0, 0])) = some (0x12, 0, 0) := by decide +kernel

/-- Row I3. -/
theorem test_ilv_merge :
    answer (.ilvMerge 4 2) (interleaved 3 false (block [1, 4, 0xFA, 0, 0, 3, 0x87] [0, 0, 0, 0, 0, 0, 0])) = some (0, 0, 2)
      ∧ buffer (ranTo (.ilvMerge 4 2) (interleaved 3 false (block [1, 4, 0xFA, 0, 0, 3, 0x87] [0, 0, 0, 0, 0, 0, 0])))
        = ([some 1, some 0, some 3, some 4, some 0, some 0x87, some 0xFA],
            [some 0, some 1, some 0, some 0, some 1, some 0, some 0]) := by decide +kernel

/-- Row I9. -/
theorem test_ilv_merge_lost_bit :
    answer (.ilvMerge 4 8) (interleaved 3 false (block en1 [0, 0, 0, 0, 0, 0, 0])) = some (0x12, 0, 0) := by decide +kernel

/-! ### Frame marker unit (95_test_vectors.md sections 4.2 to 4.4) -/

theorem test_grid_wr_rd :
    answer (.gridRd 11) (ranTo (.gridWr 11 2) State.reset) = some (0, 0, 2)
      ∧ answer (.gridWr 11 4) State.reset = some (0x12, 0, 0) ∧ answer (.gridWr 10000 0) State.reset = some (0x11, 0, 0) := by decide +kernel

theorem test_tmpl_wr_rd :
    answer (.tmplRd 5) (ranTo (.tmplWr 5 1 3) State.reset) = some (0, 0, 0xB)
      ∧ answer (.tmplWr 5 0 4) State.reset = some (0x12, 0, 0) := by decide +kernel

theorem test_fb_wr_rd :
    answer (.fbRd 0) (ranTo (.fbWr 0 0x48) State.reset) = some (0, 0, 0x48)
      ∧ answer (.fbRd 24384) State.reset = some (0x11, 0, 0) := by decide +kernel

theorem test_fr_detect :
    answer .frDetect (candidate 0 []) = some (0, 36, 36) ∧ answer .frDetect (candidate 0 [(0, 0)]) = some (3, 36, 35) := by decide +kernel

theorem test_fr_parse :
    answer .frParse (candidate 0 []) = some (0, 0x000102, 0x00030003)
      ∧ (ranTo .frParse (candidate 0 [])).fmu.fbuf = cells [0x48, 0x44, 0x54, 0x89, 0x87, 0x56, 0x00] := by decide +kernel

theorem test_fr_parse_failures :
    answer .frParse (candidate 0 [(11, 1)]) = some (4, 0, 0x443299DE)
      ∧ answer .frParse (candidate 0 [(43, 2), (44, 0), (45, 0), (46, 2), (48, 0), (51, 2), (52, 3), (53, 1), (54, 1)])
        = some (1, 0, 7) := by decide +kernel

theorem test_fr_format :
    answer .frFormat formatStart = some (0, 60, 0x99DE)
      ∧ (ranTo .frFormat formatStart).fmu.grid = cells formattedGrid := by decide +kernel

/-! ### Audio preamble correlator (95_test_vectors.md section 5) -/

theorem test_ab_wr_rd :
    answer (.abRd 3) (ranTo (.abWr 3 0xFFFD) State.reset) = some (0, 0, 0xFFFD)
      ∧ answer (.abWr 4096 0) State.reset = some (0x11, 0, 0) := by decide +kernel

theorem test_pt_wr_rd :
    answer (.ptRd 1) (ranTo (.ptWr 1 0xFFFF) State.reset) = some (0, 0, 0xFFFF)
      ∧ answer (.ptWr 1024 0) State.reset = some (0x11, 0, 0) := by decide +kernel

/-- Rows A3 and A4. -/
theorem test_au_corr :
    answer .auCorr (audio [0, 0, 3, -3, 3, 0] [1, -1, 1] 9) = some (0, 2, 9)
      ∧ answer .auCorr (audio [0, 0, 3, -3, 3, 0] [1, -1, 1] 10) = some (5, 2, 9) := by decide +kernel

/-- Rows A7 and A8. -/
theorem test_au_corr_tie_and_sign :
    answer .auCorr (audio [1, 2, 1, 2, 1] [1, 2] 5) = some (0, 0, 5)
      ∧ answer .auCorr (audio [-1, -2, -3] [1, 1] (-3)) = some (0, 0, 0xFFFFFFFD) := by decide +kernel

/-! ### Channel synchroniser (95_test_vectors.md section 6.1) -/

/-- Rows S1 and S2. -/
theorem test_observe_match :
    answer (.csObserveA 7 1001000) (ranTo (.csObserveV 7 1000000) State.reset) = some (0, 1, 1000)
      ∧ (ranTo (.csObserveA 7 1001000) (ranTo (.csObserveV 7 1000000) State.reset)).csu.offset = 6553600 := by decide +kernel

/-- Row S5. -/
theorem test_observe_audio_first :
    answer (.csObserveV 9 5400) (ranTo (.csObserveA 9 5000) State.reset) = some (0, 1, 0xFFFFFE70)
      ∧ (ranTo (.csObserveV 9 5400) (ranTo (.csObserveA 9 5000) State.reset)).csu.offset = 0xFFFFFFD80000 := by decide +kernel

/-- Row S11. -/
theorem test_observe_resync :
    answer (.csObserveV 4 4000) { State.reset with csu := { State.reset.csu with noMatch := 4 } } = some (7, 0, 5)
      ∧ answer (.csObserveA 0 7000) { State.reset with ctl := { State.reset.ctl with evt := 1 } } = some (7, 0, 0) := by decide +kernel

/-- Row S8. -/
theorem test_observe_drops_the_oldest :
    answer (.csObserveV 64 64) (seen fullHistory []) = some (0, 4, 0)
      ∧ (ranTo (.csObserveV 64 64) (seen fullHistory [])).ctl.evt = 0b010 := by decide +kernel

/-- Row S4. -/
theorem test_drift_and_align :
    answer (.csDrift 0) { State.reset with csu := { State.reset.csu with offset := 0x640000 } } = some (0, 0, 100)
      ∧ answer (.csDrift 1) { State.reset with csu := { State.reset.csu with offset := 0x640000 } } = some (0, 0, 0x640000)
      ∧ answer (.csAlign 2000000) { State.reset with csu := { State.reset.csu with offset := 0x640000 } } = some (0, 0, 1999900) := by decide +kernel

/-- Row S12. -/
theorem test_resync_and_hist_rd :
    (ranTo .csResync (seen fullHistory fullHistory)).csu.vh = []
      ∧ answer (.csHistRd 0 0 63) (seen fullHistory []) = some (0, 63, 63)
      ∧ answer (.csHistRd 0 0 0) State.reset = some (0x11, 0, 0) := by decide +kernel

/-! ### Witnesses: the machine -/

theorem witness_EncodeInvertsDecode : decode 0x1300000400000000 = .ok (.rsEnc 4) := by decide +kernel

theorem witness_IllegalWordChangesOnlyStatus :
    legalWord 0x0500000000000000 = false ∧ legalWord 0x1100020000000000 = false
      ∧ ({ State.reset with inputs := [.command 0x1100020000000000] } : State).inputs = .command 0x1100020000000000 :: [] := by decide +kernel

theorem witness_StepRunsDecodedCommand :
    decode 0x44FFFFFF00000000 ≠ .ok .csResync ∧ decode 0x4400000000000000 = .ok .csResync
      ∧ ({ State.reset with inputs := [.command 0x4400000000000000, .hardReset] } : State).inputs
        = .command 0x4400000000000000 :: [.hardReset]
      ∧ decodeTableWord 64 0x4400000000000000 = some .csResync := by decide +kernel

theorem witness_IdleAndResetPulseSteps :
    State.reset.inputs = []
      ∧ ({ State.reset with inputs := [.hardReset] } : State).inputs = .hardReset :: [] := by decide +kernel

theorem witness_CommandEndsWithOneTabulatedOutcome : ∃ t, exec .nop State.reset = .next t := ⟨_, rfl⟩

theorem witness_ReadsChangeOnlyStatus : isRead (.cfgRd 0) = true ∧ ∃ t, exec (.cfgRd 0) State.reset = .next t := ⟨rfl, _, rfl⟩

theorem witness_UnitsShareOnlyControl :
    (unitOf .cwClr = .rsu ∧ ∃ t, exec .cwClr State.reset = .next t)
      ∧ (unitOf .frDetect = .fmu ∧ ∃ t, exec .frDetect State.reset = .next t)
      ∧ (unitOf .auCorr = .apc ∧ ∃ t, exec .auCorr State.reset = .next t)
      ∧ (unitOf .csResync = .csu ∧ ∃ t, exec .csResync State.reset = .next t) := ⟨⟨rfl, _, rfl⟩, ⟨rfl, _, rfl⟩, ⟨rfl, _, rfl⟩, ⟨rfl, _, rfl⟩⟩

theorem witness_EventsChangeOnlyAsTabulated : ∃ t, exec .csResync State.reset = .next t := ⟨_, rfl⟩

/-! ### Witnesses: control commands -/

theorem witness_ConfigWriteFollowsTheMap_refused :
    (0x48#8).toNat ∈ roIndices ∧ (0x00#8).toNat ∈ roIndices
      ∧ (∀ r ∈ registerTable State.reset, r.1 ≠ (0x04#8).toNat) ∧ ∀ r ∈ registerTable State.reset, r.1 ≠ (0xFF#8).toNat := by decide +kernel

theorem witness_ConfigWriteFollowsTheMap_range :
    ((0x10#8).toNat, 25, 50) ∈ rwTable ∧ (24#32).toNat < 25 ∧ 25 ≤ (25#32).toNat ∧ (50#32).toNat ≤ 50 ∧ 50 < (51#32).toNat
      ∧ ((0x40#8).toNat, 0, 2147483647) ∈ rwTable ∧ (0x7FFFFFFF#32).toNat ≤ 2147483647 ∧ 2147483647 < (0x80000000#32).toNat := by decide +kernel

theorem witness_ConfigReadGivesTheTabulatedValue :
    State.reset.csu.vh.length ≤ 64 ∧ State.reset.csu.ah.length ≤ 64
      ∧ (∀ r ∈ registerTable State.reset, r.1 ≠ (0x49#8).toNat) ∧ ((0x48#8).toNat, 0) ∈ registerTable State.reset
      ∧ (seen fullHistory fullHistory).csu.vh.length ≤ 64 ∧ (seen fullHistory fullHistory).csu.ah.length ≤ 64
      ∧ ((0x46#8).toNat, 64 + 256 * 64) ∈ registerTable (seen fullHistory fullHistory) := by decide +kernel

/-! ### Witnesses: Reed-Solomon unit -/

theorem witness_PushAppendsOneSymbol :
    (interleaved 3 true State.reset).rsu.ilv = true
      ∧ (State.reset.rsu.ilv = false ∧ State.reset.rsu.cwLen.toNat < 255)
      ∧ (∀ n ∈ [255, 256], (block (List.replicate n 7) []).rsu.ilv = false ∧ 255 ≤ (block (List.replicate n 7) []).rsu.cwLen.toNat)
      ∧ (block (List.replicate 254 7) []).rsu.ilv = false ∧ (block (List.replicate 254 7) []).rsu.cwLen.toNat < 255 := by decide +kernel

theorem witness_CodewordReadGivesSymbolAndMark :
    blockWritten (block en1 [0, 0, 0, 0, 0, 0, 0])
      ∧ min (block en1 [0, 0, 0, 0, 0, 0, 0]).rsu.cwLen.toNat 255 ≤ (7#8).toNat
      ∧ (6#8).toNat < min (block en1 [0, 0, 0, 0, 0, 0, 0]).rsu.cwLen.toNat 255 := by decide +kernel

theorem witness_CodewordReadGivesSymbolAndMark_full :
    blockWritten (block (List.replicate 255 7) (List.replicate 255 0))
      ∧ (254#8).toNat < min (block (List.replicate 255 7) (List.replicate 255 0)).rsu.cwLen.toNat 255
      ∧ min (block (List.replicate 255 7) (List.replicate 255 0)).rsu.cwLen.toNat 255 ≤ (255#8).toNat := by decide +kernel

theorem witness_EncodeAppendsTheParitySymbols_refused :
    blockWritten State.reset ∧ blockWritten (interleaved 3 true State.reset) ∧ (interleaved 3 true State.reset).rsu.ilv = true
      ∧ State.reset.rsu.ilv = false ∧ 255 < (189#8).toNat + parityCount State.reset.rsu.rsRpct.toNat (189#8).toNat
      ∧ State.reset.rsu.cwLen.toNat ≠ (1#8).toNat := by decide +kernel

theorem witness_EncodeAppendsTheParitySymbols_done :
    ∀ k ∈ [1#8, 4#8, 188#8],
      blockWritten (block (List.replicate k.toNat 7) (List.replicate k.toNat 0))
      ∧ (block (List.replicate k.toNat 7) (List.replicate k.toNat 0)).rsu.ilv = false ∧ k ≠ 0
      ∧ k.toNat + parityCount 35 k.toNat ≤ 255
      ∧ (block (List.replicate k.toNat 7) (List.replicate k.toNat 0)).rsu.rsRpct.toNat = 35
      ∧ (block (List.replicate k.toNat 7) (List.replicate k.toNat 0)).rsu.cwLen.toNat = k.toNat := by decide +kernel

theorem witness_DecodeCorrectsTheBlockInPlace_refused :
    blockWritten (interleaved 3 true State.reset) ∧ (interleaved 3 true State.reset).rsu.ilv = true
      ∧ blockWritten State.reset ∧ State.reset.rsu.ilv = false
      ∧ State.reset.rsu.cwLen.toNat ≠ (4#8).toNat + parityCount State.reset.rsu.rsRpct.toNat (4#8).toNat := by decide +kernel

theorem witness_DecodeCorrectsTheBlockInPlace_done :
    blockWritten (block en1 [0, 0, 0, 0, 0, 0, 0]) ∧ (block en1 [0, 0, 0, 0, 0, 0, 0]).rsu.ilv = false ∧ (4#8) ≠ 0
      ∧ (4#8).toNat + parityCount (block en1 [0, 0, 0, 0, 0, 0, 0]).rsu.rsRpct.toNat (4#8).toNat ≤ 255
      ∧ (block en1 [0, 0, 0, 0, 0, 0, 0]).rsu.cwLen.toNat
        = (4#8).toNat + parityCount (block en1 [0, 0, 0, 0, 0, 0, 0]).rsu.rsRpct.toNat (4#8).toNat
      ∧ decodeBlock 3 (en1.map (BitVec.ofNat 8)) (List.replicate 7 false) = some (en1.map (BitVec.ofNat 8), 0)
      ∧ decodeBlock 3 [1, 0xFF, 3, 4, 0x79, 0x00, 0xFA] (List.replicate 7 false) = none := by decide +kernel

theorem witness_SplitPermutesIntoSlices :
    ∀ d ∈ [2, 3, 16],
      let s := interleaved d false (block en1 [0, 0, 0, 0, 0, 0, 0])
      blockWritten s ∧ registersOk s ∧ s.rsu.ilv = false ∧ (4#8) ≠ 0 ∧ s.rsu.ilvD.toNat = d
      ∧ s.rsu.cwLen.toNat = (4#8).toNat + parityCount s.rsu.rsRpct.toNat (4#8).toNat
      ∧ (d = 2 ↔ parityCount s.rsu.rsRpct.toNat (4#8).toNat < cdiv 7 d) := by decide +kernel

theorem witness_SplitPermutesIntoSlices_refused :
    blockWritten State.reset ∧ registersOk State.reset ∧ State.reset.rsu.ilv = false
      ∧ blockWritten (interleaved 3 true State.reset) ∧ registersOk (interleaved 3 true State.reset)
      ∧ (interleaved 3 true State.reset).rsu.ilv = true := by decide +kernel

theorem witness_MergePermutesBackAndMarksLostSlices :
    ∀ d ∈ [2, 3, 16],
      let s := interleaved d true (block en1 [0, 0, 0, 0, 0, 0, 0])
      blockWritten s ∧ registersOk s ∧ (4#8) ≠ 0 ∧ s.rsu.ilvD.toNat = d
      ∧ s.rsu.cwLen.toNat = (4#8).toNat + parityCount s.rsu.rsRpct.toNat (4#8).toNat
      ∧ (d = 2 ↔ parityCount s.rsu.rsRpct.toNat (4#8).toNat < cdiv 7 d)
      ∧ (7#16).toNat < 2 ^ 3 ∧ 2 ^ 3 ≤ (8#16).toNat ∧ (0xFFFF#16).toNat < 2 ^ 16 := by decide +kernel

theorem witness_MergePermutesBackAndMarksLostSlices_refused :
    blockWritten State.reset ∧ registersOk State.reset
      ∧ State.reset.rsu.cwLen.toNat ≠ (4#8).toNat + parityCount State.reset.rsu.rsRpct.toNat (4#8).toNat := by decide +kernel

theorem witness_EncodeThenDecodeKeepsTheBlock :
    blockWritten (block [1, 2, 3, 4] [0, 0, 0, 0])
      ∧ ∃ t, exec (.rsEnc 4) (block [1, 2, 3, 4] [0, 0, 0, 0]) = .next t ∧ t.ctl.status = 0 := 
  ⟨by decide +kernel, ranTo (.rsEnc 4) (block [1, 2, 3, 4] [0, 0, 0, 0]), rfl, by decide +kernel⟩

theorem witness_SplitThenMergeRestoresTheBuffer :
    blockWritten (interleaved 3 false (block en1 [0, 0, 0, 0, 0, 0, 0]))
      ∧ registersOk (interleaved 3 false (block en1 [0, 0, 0, 0, 0, 0, 0]))
      ∧ ∃ t, exec (.ilvSplit 4) (interleaved 3 false (block en1 [0, 0, 0, 0, 0, 0, 0])) = .next t ∧ t.ctl.status = 0 := 
  ⟨by decide +kernel, by decide +kernel, ranTo (.ilvSplit 4) (interleaved 3 false (block en1 [0, 0, 0, 0, 0, 0, 0])), rfl,
    by decide +kernel⟩

theorem witness_EncoderGivesTheSystematicCodeword : 1 ≤ 1 := by decide +kernel

theorem witness_EncoderIsLinear :
    ([1, 2, 3, 4] : List Sym).length = ([0x01, 0x7C, 0x03, 0xBC] : List Sym).length := by decide +kernel

theorem witness_CodeIsMaximumDistanceSeparable :
    (let c : List Sym := [0x01, 0x02, 0x03, 0x04, 0x79, 0x87, 0xFA]
        let d : List Sym := [0x01, 0x7C, 0x03, 0xBC, 0x79, 0x8B, 0x30]
        c.length = d.length ∧ c.length ≤ 255 ∧ isCodeword 3 c = true ∧ isCodeword 3 d = true ∧ c ≠ d)
      ∧ ([true, true, true, false] : List Bool).length = ([1, 2, 3, 4] : List Sym).length
      ∧ ([1, 2, 3, 4] : List Sym).length ≤ 255 ∧ erasureCount [true, true, true, false] = 3 := by decide +kernel

theorem witness_DecoderAnswersAreWithinTheBound :
    (List.replicate 7 false).length = (en1.map (BitVec.ofNat 8)).length
      ∧ decodeBlock 3 (en1.map (BitVec.ofNat 8)) (List.replicate 7 false) = some (en1.map (BitVec.ofNat 8), 0) := by decide +kernel

theorem witness_DecoderComputesTheBoundedCodeword :
    ∀ n ∈ [2, 255], (List.replicate n true).length = (List.replicate n (0 : Sym)).length
      ∧ n - 1 < (List.replicate n (0 : Sym)).length ∧ (List.replicate n (0 : Sym)).length ≤ 255 := by decide +kernel

theorem witness_OneErrorBeyondTheBoundIsDetected :
    3 % 2 = 1 ∧ 3 < ([1, 0xFF, 3, 4, 0x79, 0x00, 0xFA] : List Sym).length
      ∧ ([1, 0xFF, 3, 4, 0x79, 0x00, 0xFA] : List Sym).length ≤ 255
      ∧ (en1.map (BitVec.ofNat 8)).length = ([1, 0xFF, 3, 4, 0x79, 0x00, 0xFA] : List Sym).length
      ∧ isCodeword 3 (en1.map (BitVec.ofNat 8)) = true
      ∧ differences (en1.map (BitVec.ofNat 8)) [1, 0xFF, 3, 4, 0x79, 0x00, 0xFA] = 3 / 2 + 1 := by decide +kernel

theorem witness_SymbolFieldLaws : (0xFF : Sym) ≠ 0 := by decide +kernel

theorem witness_ParityCountIsTheLeastOddCover : 3 % 2 = 1 ∧ 4 * 35 ≤ 100 * 3 ∧ 4 ≤ 5 := by decide +kernel

theorem witness_InterleavingOrdersBySlice : 1 ≤ 1 ∧ 2 < 3 ∧ 6 < 7 := by decide +kernel

theorem witness_DepthFiveIsTheLeastThatAlwaysPasses : 25 ≤ 25 ∧ 5 ≤ 5 := by decide +kernel

/-! ### Witnesses: frame marker unit -/

theorem witness_GridAndTemplateWritesStoreOneModule :
    State.reset.fmu.gridN.toNat * State.reset.fmu.gridN.toNat ≤ (10000#16).toNat
      ∧ (9999#16).toNat < State.reset.fmu.gridN.toNat * State.reset.fmu.gridN.toNat
      ∧ 2 ^ State.reset.fmu.palBits.toNat ≤ (4#3).toNat ∧ (3#3).toNat < 2 ^ State.reset.fmu.palBits.toNat := by decide +kernel

theorem witness_ByteAndSampleWritesStoreOneElement :
    24384 ≤ (24384#16).toNat ∧ (24383#16).toNat < 24384 ∧ 4096 ≤ (4096#16).toNat ∧ (4095#16).toNat < 4096
      ∧ 1024 ≤ (1024#16).toNat ∧ (1023#16).toNat < 1024 := by decide +kernel

theorem witness_BufferReadsGiveTheStoredElement :
    State.reset.fmu.gridN.toNat * State.reset.fmu.gridN.toNat ≤ (10000#16).toNat
      ∧ (9999#16).toNat < State.reset.fmu.gridN.toNat * State.reset.fmu.gridN.toNat
      ∧ 24384 ≤ (24384#16).toNat ∧ (24383#16).toNat < 24384 ∧ 4096 ≤ (4096#16).toNat ∧ (4095#16).toNat < 4096
      ∧ 1024 ≤ (1024#16).toNat ∧ (1023#16).toNat < 1024 := by decide +kernel

theorem witness_DetectScoresTheReservedModules :
    (templateFits (frame 1 1 0 [1] [9]) ∧ gridFits (frame 1 1 0 [1] [9]) ∧ finderDetected (frame 1 1 0 [1] [9]))
      ∧ (templateFits (frame 1 1 0 [0] [9]) ∧ gridFits (frame 1 1 0 [0] [9]) ∧ ¬ finderDetected (frame 1 1 0 [0] [9]))
      ∧ (templateFits (frame 1 1 1 [0] [9]) ∧ gridFits (frame 1 1 1 [0] [9]) ∧ finderDetected (frame 1 1 1 [0] [9]))
      ∧ ¬ templateFits (frame 1 1 0 [0] [10]) ∧ ¬ gridFits (frame 1 1 0 [2] [9]) := by
  unfold templateFits gridFits finderDetected
  decide +kernel

/-- A grid of 36 modules of 2 bits, the least that holds a header: all fields 0 and this checksum. -/
def headerOnly (f1ce : List Nat) : State := frame 6 2 0 (List.replicate 28 0 ++ f1ce) (List.replicate 36 0)

/-- The same with `payloadLength` 1 and its checksum 0xE1EF. -/
def tooLong : State := frame 6 2 0 (List.replicate 27 0 ++ [1] ++ [3, 2, 0, 1, 3, 2, 3, 3]) (List.replicate 36 0)

theorem witness_ParseRunsTheStagesInOrder_refused :
    ¬ (templateFits (frame 1 1 0 [2] [9]) ∧ gridFits (frame 1 1 0 [2] [9]))
      ∧ capacity (frame 1 1 0 [0] [0]) < 72 ∧ capacity (frame 6 2 0 [] (8 :: List.replicate 35 0)) = 70 := by
  unfold templateFits gridFits
  decide +kernel

theorem witness_ParseRunsTheStagesInOrder_finder :
    templateFits (candidate 0 [(0, 0)]) ∧ gridFits (candidate 0 [(0, 0)]) ∧ 72 ≤ capacity (candidate 0 [(0, 0)])
      ∧ ¬ finderDetected (candidate 0 [(0, 0)]) := by
  unfold templateFits gridFits finderDetected
  decide +kernel

/-- With the right checksum the length 0 is exactly the 0 bytes available; with another the stage fails. -/
theorem witness_ParseRunsTheStagesInOrder_checksum :
    ∀ last ∈ [[3, 3, 0, 1, 3, 0, 3, 1], [3, 3, 0, 1, 3, 0, 3, 2]],
      templateFits (headerOnly last) ∧ gridFits (headerOnly last) ∧ capacity (headerOnly last) = 72
      ∧ finderDetected (headerOnly last) ∧ field (gridSequence (headerOnly last)) 40 16 = 0
      ∧ (crc16 [0, 0, 0, 0, 0, 0, 0] = BitVec.ofNat 16 (field (gridSequence (headerOnly last)) 56 16)
        ↔ last = [3, 3, 0, 1, 3, 0, 3, 2]) := by
  unfold templateFits gridFits finderDetected
  decide +kernel

theorem witness_ParseRunsTheStagesInOrder_length :
    templateFits tooLong ∧ gridFits tooLong ∧ capacity tooLong = 72 ∧ finderDetected tooLong
      ∧ field (gridSequence tooLong) 40 16 = 1
      ∧ crc16 [0, 0, 0, 0, 0, 0, 1] = BitVec.ofNat 16 (field (gridSequence tooLong) 56 16) := by
  unfold templateFits gridFits finderDetected
  decide +kernel

theorem witness_FormatLaysOutTheFrame :
    ¬ templateFits (frame 1 1 0 [] [10])
      ∧ templateFits (frame 6 2 0 [] (8 :: List.replicate 35 0)) ∧ capacity (frame 6 2 0 [] (8 :: List.replicate 35 0)) < 72 + 8 * (0 + 0)
      ∧ templateFits (frame 6 2 0 [] (List.replicate 36 0)) ∧ 72 + 8 * (0 + 0) ≤ capacity (frame 6 2 0 [] (List.replicate 36 0))
      ∧ templateFits formatStart ∧ 72 + 8 * (3 + 3) ≤ capacity formatStart := by
  unfold templateFits
  decide +kernel

theorem witness_FormatThenParseReturnsTheFrame :
    templateWritten formatStart
      ∧ (∀ i < formatStart.fmu.hdrPaylen.toNat + formatStart.fmu.frParlen.toNat, (Mem.get? formatStart.fmu.fbuf i).isSome = true)
      ∧ ∃ t, exec .frFormat formatStart = .next t ∧ t.ctl.status = 0 := by
  refine ⟨?_, by decide +kernel, ranTo .frFormat formatStart, rfl, by decide +kernel⟩
  unfold templateWritten
  decide +kernel

theorem witness_FailuresPublishNothing :
    (∃ t, exec (.rsDec 4) State.reset = .next t ∧ (t.ctl.status = 0x01 ∨ t.ctl.status = 0x02))
      ∧ ∃ t, exec .frParse (candidate 0 [(11, 1)]) = .next t ∧ t.ctl.status ≠ 0 := 
  ⟨⟨ranTo (.rsDec 4) State.reset, rfl, by decide +kernel⟩,
    ranTo .frParse (candidate 0 [(11, 1)]), rfl, by decide +kernel⟩

/-! ### Witnesses: audio preamble correlator -/

theorem witness_CorrelatorReportsTheFirstPeak_refused :
    (audio [1, 2] [] 0).apc.ptLen.toNat = 0
      ∧ (audio [1, 2] [1, 1, 1] 0).apc.ptLen.toNat ≠ 0
      ∧ (audio [1, 2] [1, 1, 1] 0).apc.abLen.toNat < (audio [1, 2] [1, 1, 1] 0).apc.ptLen.toNat := by decide +kernel

theorem witness_CorrelatorReportsTheFirstPeak_peak :
    ∀ x ∈ [(([1, 2, 1, 2, 1] : List Int), 0, 5), ([1, 2, 1, 2, 1], 0, 6), ([1, 2], 0, 5)],
      let s := audio x.1 [1, 2] x.2.2
      let c := fun l => ∑ i ∈ Finset.range s.apc.ptLen.toNat, (readAbuf s (l + i)).toInt * (readPtmpl s i).toInt
      s.apc.ptLen.toNat ≠ 0 ∧ s.apc.ptLen.toNat ≤ s.apc.abLen.toNat ∧ x.2.1 ≤ s.apc.abLen.toNat - s.apc.ptLen.toNat
      ∧ (∀ l ≤ s.apc.abLen.toNat - s.apc.ptLen.toNat, c l ≤ c x.2.1) ∧ (∀ l < x.2.1, c l < c x.2.1)
      ∧ (x.2.2 = 5 ↔ (s.apc.auThreshHi ++ s.apc.auThreshLo : BitVec 48).toInt ≤ c x.2.1) := by decide +kernel

theorem witness_CorrelationFitsItsRegister :
    let s := { State.reset with apc := { State.reset.apc with ptLen := 1, abLen := 1 } }
    s.apc.ptLen.toNat ≤ 1024 ∧ s.apc.auThreshHi = 0x7FFF ∧ s.apc.auThreshLo = 0xFFFFFFFF ∧ ∃ t, exec .auCorr s = .next t := ⟨by decide, rfl, rfl, _, rfl⟩

/-! ### Witnesses: channel synchroniser -/

/-- One unmatched visual entry with id 1, one unmatched audio entry with id 2, and one of id 3 in each, matched. -/
def twoChannels : State :=
  seen [{ id := 1, ts := 0, used := false }, { id := 3, ts := 0, used := true }]
    [{ id := 2, ts := 0, used := false }, { id := 3, ts := 0, used := true }]

/-- The same after the event `RESYNC_REQ`, with `n` unmatched visual observations. -/
def waiting (evt n : Nat) : State :=
  { twoChannels with
    ctl := { twoChannels.ctl with evt := BitVec.ofNat 3 evt }
    csu := { twoChannels.csu with noMatch := BitVec.ofNat 8 n } }

theorem witness_VisualObservationFollowsItsRule_seen :
    ((waiting 1 0).csu.ah.map HistEntry.id).Nodup ∧ (waiting 1 0).ctl.evt.getLsbD 0 = true
      ∧ (waiting 0 0).ctl.evt.getLsbD 0 = false
      ∧ (∃ e ∈ surviving (waiting 0 0).csu.histWin 2000000 (waiting 0 0).csu.vh, e.id = 1)
      ∧ ∀ e ∈ surviving (waiting 0 0).csu.histWin 2000001 (waiting 0 0).csu.vh, e.id ≠ 1 := by decide +kernel

theorem witness_VisualObservationFollowsItsRule_match :
    (∀ e ∈ surviving (waiting 0 0).csu.histWin 5 (waiting 0 0).csu.vh, e.id ≠ 2)
      ∧ (∃ a ∈ surviving (waiting 0 0).csu.histWin 5 (waiting 0 0).csu.ah, a.id = 2 ∧ a.used = false)
      ∧ ((seen fullHistory []).csu.ah.map HistEntry.id).Nodup
      ∧ (surviving State.reset.csu.histWin 64 (seen fullHistory []).csu.vh).length = 64 := by decide +kernel

theorem witness_VisualObservationFollowsItsRule_unmatched :
    ∀ n ∈ [3, 4, 255],
      (∀ e ∈ surviving (waiting 0 n).csu.histWin 5 (waiting 0 n).csu.vh, e.id ≠ 4)
      ∧ (∀ a ∈ surviving (waiting 0 n).csu.histWin 5 (waiting 0 n).csu.ah, a.id = 4 → a.used = true)
      ∧ (waiting 0 n).csu.resyncN ≠ 0
      ∧ (n = 3 ↔ min 255 ((waiting 0 n).csu.noMatch.toNat + 1) < (waiting 0 n).csu.resyncN.toNat) := by decide +kernel

theorem witness_AudioObservationFollowsItsRule_seen :
    ((waiting 1 0).csu.vh.map HistEntry.id).Nodup ∧ (waiting 1 0).ctl.evt.getLsbD 0 = true
      ∧ (waiting 0 0).ctl.evt.getLsbD 0 = false
      ∧ (∃ e ∈ surviving (waiting 0 0).csu.histWin 2000000 (waiting 0 0).csu.ah, e.id = 2)
      ∧ ∀ e ∈ surviving (waiting 0 0).csu.histWin 2000001 (waiting 0 0).csu.ah, e.id ≠ 2 := by decide +kernel

theorem witness_AudioObservationFollowsItsRule_new :
    (∀ e ∈ surviving (waiting 0 0).csu.histWin 5 (waiting 0 0).csu.ah, e.id ≠ 1)
      ∧ (∃ v ∈ surviving (waiting 0 0).csu.histWin 5 (waiting 0 0).csu.vh, v.id = 1 ∧ v.used = false)
      ∧ (∀ e ∈ surviving (waiting 0 0).csu.histWin 5 (waiting 0 0).csu.ah, e.id ≠ 4)
      ∧ ∀ v ∈ surviving (waiting 0 0).csu.histWin 5 (waiting 0 0).csu.vh, v.id = 4 → v.used = true := by decide +kernel

theorem witness_HistoryReadGivesTheEntry :
    (seen fullHistory []).csu.vh.length ≤ (64#8).toNat
      ∧ (seen fullHistory []).csu.vh[(63#8).toNat]? = some { id := 63, ts := 63, used := false }
      ∧ (seen [] fullHistory).csu.ah[(0#8).toNat]? = some { id := 0, ts := 0, used := false } := by decide +kernel

theorem witness_EstimatorAveragesWithFloor :
    State.reset.csu.havePrev = false
      ∧ (let c := { State.reset.csu with havePrev := true, tPrev := 5 }
        c.havePrev = true ∧ (5#32 - c.tPrev).toInt ≤ 0 ∧ 0 < (6#32 - c.tPrev).toInt) := by decide +kernel

theorem witness_ObservationBoundsTheHistories :
    resyncReq (seen fullHistory fullHistory) = false ∧ (seen fullHistory fullHistory).csu.vh.length ≤ 64
      ∧ (seen fullHistory fullHistory).csu.ah.length ≤ 64
      ∧ (∃ t, exec (.csObserveV 64 64) (seen fullHistory fullHistory) = .next t)
      ∧ ∃ t, exec (.csObserveA 64 64) (seen fullHistory fullHistory) = .next t := ⟨by decide, by decide, by decide, ⟨_, rfl⟩, ⟨_, rfl⟩⟩

/-! ### Witnesses: invariants -/

theorem witness_StepKeepsMemoriesAndRegisters :
    (memoriesOk (State.reset.withFetchWord 64 0) ∧ registersOk (State.reset.withFetchWord 64 0)
      ∧ countersOk (State.reset.withFetchWord 64 0)) ∧ ∃ t, step (State.reset.withFetchWord 64 0) = .next t := ⟨by decide +kernel, _, rfl⟩

theorem witness_StepKeepsTheHistories :
    historiesOk (twoChannels.withFetchWord 64 0x4000000100000005)
      ∧ ∃ t, step (twoChannels.withFetchWord 64 0x4000000100000005) = .next t := ⟨by decide +kernel, _, rfl⟩

theorem witness_StepKeepsTheCodewordBuffer :
    (blockWritten (ranTo (.rsEnc 4) (block [1, 2, 3, 4] [0, 0, 0, 0]))
      ∧ codewordOk (ranTo (.rsEnc 4) (block [1, 2, 3, 4] [0, 0, 0, 0]))
      ∧ (ranTo (.rsEnc 4) (block [1, 2, 3, 4] [0, 0, 0, 0])).rsu.cwOk = true)
      ∧ ∃ t, step ((ranTo (.rsEnc 4) (block [1, 2, 3, 4] [0, 0, 0, 0])).withFetchWord 64 0x1400000400000000) = .next t := 
  ⟨by decide +kernel, _, rfl⟩

end Sys2Proof.Tests
end

/-! Proofs, part 1: what one command and one step can do to each unit. -/

namespace Sys2Proof.Proofs

open Sys2Proof Sys2Proof.Machine Sys2Proof.Safety

/-! ### Ending a command -/

/-- `t` is `s` after the end of a command: `STATUS`, the response word and the model's counter changed (00_scope.md R13). -/
def Ends (s t : State) : Prop := ∃ st ra rb, t = respond st ra rb s

theorem ends_respond (st : OutcomeCode) (ra : BitVec 24) (rb : BitVec 32) (s : State) : Ends s (respond st ra rb s) :=
  ⟨st, ra, rb, rfl⟩

theorem ends_raise (st : OutcomeCode) (ra : BitVec 24) (rb : BitVec 32) (s : State) : Ends s (raise st ra rb s) :=
  ⟨st, ra, rb, rfl⟩

/-- A command that checks its operand and then answers without effect. -/
theorem ends_checked (c : Prop) [Decidable c] (st st' : OutcomeCode) (ra ra' : BitVec 24) (rb rb' : BitVec 32) (s : State) :
    Ends s (if c then raise st ra rb s else respond st' ra' rb' s) := by
  split_ifs
  · exact ends_raise _ _ _ _
  · exact ends_respond _ _ _ _

theorem Ends.rsu {s t : State} (h : Ends s t) : t.rsu = s.rsu := by obtain ⟨st, ra, rb, rfl⟩ := h; rfl

theorem Ends.fmu {s t : State} (h : Ends s t) : t.fmu = s.fmu := by obtain ⟨st, ra, rb, rfl⟩ := h; rfl

theorem Ends.apc {s t : State} (h : Ends s t) : t.apc = s.apc := by obtain ⟨st, ra, rb, rfl⟩ := h; rfl

theorem Ends.csu {s t : State} (h : Ends s t) : t.csu = s.csu := by obtain ⟨st, ra, rb, rfl⟩ := h; rfl

theorem Ends.evt {s t : State} (h : Ends s t) : t.ctl.evt = s.ctl.evt := by obtain ⟨st, ra, rb, rfl⟩ := h; rfl

/-! ### Control commands -/

/-- What a control command does before it ends (40_control_commands.md R130 to R134). -/
inductive CtlChange (s : State) : Instr → State → Prop
  | nop : CtlChange s .nop s
  | readReg (reg : BitVec 8) : CtlChange s (.cfgRd reg) s
  /-- `CFG_WR` of no writable register or with an illegal value. -/
  | refused (reg : BitVec 8) (v : BitVec 32) : CtlChange s (.cfgWr reg v) s
  | configured (reg : BitVec 8) (r : Reg) (lo hi : Nat) (v : BitVec 32) (hreg : regOfIndex reg = some r)
      (hr : legalRange r = some (lo, hi)) (hlo : lo ≤ v.toNat) (hhi : v.toNat ≤ hi) :
      CtlChange s (.cfgWr reg v) (writeReg s r v)
  | reset : CtlChange s .softReset (softResetState s)
  | cleared (mask : BitVec 2) : CtlChange s (.evtClr mask) (clearEvents mask s)

theorem execCfgWr_change {reg : BitVec 8} {val : BitVec 32} {s t : State} (h : execCfgWr reg val s = .next t) :
    ∃ u, CtlChange s (.cfgWr reg val) u ∧ Ends u t := by
  simp only [execCfgWr, Host.Outcome.next.injEq] at h
  subst h
  split
  case h_1 => exact ⟨_, .refused reg val, ends_raise _ _ _ _⟩
  case h_2 r hreg =>
    split
    case h_1 => exact ⟨_, .refused reg val, ends_raise _ _ _ _⟩
    case h_2 lo hi hr =>
      split_ifs with hv
      · exact ⟨_, .configured reg r lo hi val hreg hr hv.1 hv.2, ends_respond _ _ _ _⟩
      · exact ⟨_, .refused reg val, ends_raise _ _ _ _⟩

theorem execCfgRd_ends {reg : BitVec 8} {s t : State} (h : execCfgRd reg s = .next t) : Ends s t := by
  simp only [execCfgRd, Host.Outcome.next.injEq] at h
  subst h
  split
  · exact ends_raise _ _ _ _
  · exact ends_respond _ _ _ _

theorem exec_ctl_cases {i : Instr} {s t : State} (hu : unitOf i = .ctl) (h : exec i s = .next t) :
    ∃ u, CtlChange s i u ∧ Ends u t := by
  cases i <;> cases hu
  case nop => cases h; exact ⟨_, .nop, ends_respond _ _ _ _⟩
  case cfgWr => exact execCfgWr_change h
  case cfgRd reg => exact ⟨_, .readReg reg, execCfgRd_ends h⟩
  case softReset => cases h; exact ⟨_, .reset, ends_respond _ _ _ _⟩
  case evtClr mask => cases h; exact ⟨_, .cleared mask, ends_respond _ _ _ _⟩

/-! ### Reed-Solomon unit -/

/-- What a command does to the Reed-Solomon unit (41_rs_fec.md R160 to R173, 40_control_commands.md R131, R133). -/
inductive RsuChange (s : State) : RsuState → Prop
  | same : RsuChange s s.rsu
  /-- `CFG_WR` with a legal value. -/
  | configured (r : Reg) (lo hi : Nat) (v : BitVec 32) (hr : legalRange r = some (lo, hi)) (hlo : lo ≤ v.toNat)
      (hhi : v.toNat ≤ hi) : RsuChange s (writeReg s r v).rsu
  /-- `SOFT_RESET`. -/
  | reset : RsuChange s (softResetState s).rsu
  /-- `CW_CLR`, and `MalformedBlock` of `ILV_MERGE`. -/
  | cleared : RsuChange s { s.rsu with cwLen := 0, cwOk := false, ilv := false }
  /-- `CW_PUSH` into a full buffer. -/
  | overflowed (hlen : 255 ≤ s.rsu.cwLen.toNat) : RsuChange s { s.rsu with cwLen := 256, cwOk := false }
  /-- `CW_PUSH`. -/
  | pushed (sym : BitVec 8) (era : BitVec 1) (hlen : s.rsu.cwLen.toNat < 255) :
      RsuChange s { s.rsu with
        cw := Mem.write s.rsu.cw s.rsu.cwLen.toNat sym
        era := Mem.write s.rsu.era s.rsu.cwLen.toNat era
        cwLen := BitVec.ofNat 9 (s.rsu.cwLen.toNat + 1)
        cwOk := false }
  /-- `MalformedBlock` of `RS_ENC`, `RS_DEC`, `ILV_SPLIT`. -/
  | discarded : RsuChange s (discardBlock s).rsu
  /-- `RS_ENC k`. -/
  | encoded (k : BitVec 8) (hfit : k.toNat + parityOf s k ≤ Config.nCwMax) (hlen : s.rsu.cwLen.toNat = k.toNat) :
      RsuChange s { s.rsu with
        cw := Mem.writeList s.rsu.cw k.toNat (paritySymbols (parityOf s k) (cwSymbols s k.toNat))
        era := Mem.writeList s.rsu.era 0 (List.replicate (k.toNat + parityOf s k) 0)
        cwLen := BitVec.ofNat 9 (k.toNat + parityOf s k)
        cwOk := true
        lastP := BitVec.ofNat 8 (parityOf s k)
        lastK := k }
  /-- `UncorrectableErrors` of `RS_DEC k`. -/
  | uncorrectable (k : BitVec 8) :
      RsuChange s { s.rsu with
        lastP := BitVec.ofNat 8 (parityOf s k), lastK := k, cwLen := 0, cwOk := false }
  /-- `RS_DEC k`. -/
  | decoded (k : BitVec 8) (c : List Sym) (e : Nat) (hcount : wrongCount s k = false)
      (hdec : decodeBlock (parityOf s k) (cwSymbols s (k.toNat + parityOf s k)) (eraMarks s (k.toNat + parityOf s k))
        = some (c, e)) :
      RsuChange s { s.rsu with
        cw := Mem.writeList s.rsu.cw 0 c
        era := Mem.writeList s.rsu.era 0 ((List.replicate (k.toNat + parityOf s k) false).map BitVec.ofBool)
        lastP := BitVec.ofNat 8 (parityOf s k)
        lastK := k
        cwOk := true
        errCnt := BitVec.ofNat 8 e
        eraCnt := BitVec.ofNat 8 (erasureCount (eraMarks s (k.toNat + parityOf s k))) }
  /-- `ILV_SPLIT k`. -/
  | split (k : BitVec 8) (hcount : wrongCount s k = false) :
      RsuChange s { (splitBlock (k.toNat + parityOf s k) s.rsu.ilvD.toNat s).rsu with ilv := true, cwOk := false }
  /-- `ILV_MERGE k, lost`. -/
  | merged (k : BitVec 8) (lost : BitVec 16) (hcount : wrongCount s k = false) :
      RsuChange s
        { (storeBlock
            ((List.range (k.toNat + parityOf s k)).map fun j =>
              readCw s (sigma (k.toNat + parityOf s k) s.rsu.ilvD.toNat j))
            (mergedMarks (k.toNat + parityOf s k) s.rsu.ilvD.toNat lost s) s).rsu with
          ilv := false, cwOk := false }

/-- `t` is `s` with the Reed-Solomon unit changed as one of its commands may, and the command ended. -/
def RsuEnds (s t : State) : Prop := ∃ r, RsuChange s r ∧ Ends { s with rsu := r } t

theorem execCwPush_change {sym : BitVec 8} {era : BitVec 1} {s t : State} (h : execCwPush sym era s = .next t) :
    RsuEnds s t := by
  simp only [execCwPush, Host.Outcome.next.injEq] at h
  subst h
  split_ifs with hi hlen
  · exact ⟨_, .same, ends_raise _ _ _ _⟩
  · exact ⟨_, .overflowed hlen, ends_raise _ _ _ _⟩
  · exact ⟨_, .pushed sym era (Nat.lt_of_not_le hlen), ends_respond _ _ _ _⟩

theorem execRsEnc_change {k : BitVec 8} {s t : State} (h : execRsEnc k s = .next t) : RsuEnds s t := by
  simp only [execRsEnc, Host.Outcome.next.injEq] at h
  subst h
  split_ifs with hi hbad
  · exact ⟨_, .same, ends_raise _ _ _ _⟩
  · exact ⟨_, .discarded, ends_raise _ _ _ _⟩
  · simp only [not_or, not_not] at hbad
    obtain ⟨_, hfit, hlen⟩ := hbad
    exact ⟨_, .encoded k (Nat.le_of_not_lt hfit) hlen, ends_respond _ _ _ _⟩

theorem execRsDec_change {k : BitVec 8} {s t : State} (h : execRsDec k s = .next t) : RsuEnds s t := by
  simp only [execRsDec, Host.Outcome.next.injEq] at h
  subst h
  split_ifs with hi hcount
  · exact ⟨_, .same, ends_raise _ _ _ _⟩
  · exact ⟨_, .discarded, ends_raise _ _ _ _⟩
  · split
    case h_1 => exact ⟨_, .uncorrectable k, ends_raise _ _ _ _⟩
    case h_2 c e hdec => exact ⟨_, .decoded k c e (by simpa using hcount) hdec, ends_respond _ _ _ _⟩

theorem execIlvSplit_change {k : BitVec 8} {s t : State} (h : execIlvSplit k s = .next t) : RsuEnds s t := by
  simp only [execIlvSplit, Host.Outcome.next.injEq] at h
  subst h
  split_ifs with hi hcount hp
  · exact ⟨_, .same, ends_raise _ _ _ _⟩
  · exact ⟨_, .discarded, ends_raise _ _ _ _⟩
  · exact ⟨_, .same, ends_raise _ _ _ _⟩
  · exact ⟨_, .split k (by simpa using hcount), ends_respond _ _ _ _⟩

theorem execIlvMerge_change {k : BitVec 8} {lost : BitVec 16} {s t : State} (h : execIlvMerge k lost s = .next t) :
    RsuEnds s t := by
  simp only [execIlvMerge, Host.Outcome.next.injEq] at h
  subst h
  split_ifs with hcount hp
  · exact ⟨_, .cleared, ends_raise _ _ _ _⟩
  · exact ⟨_, .same, ends_raise _ _ _ _⟩
  · exact ⟨_, .merged k lost (by simpa using hcount), ends_respond _ _ _ _⟩

theorem exec_rsu_cases {i : Instr} {s t : State} (hu : unitOf i = .rsu) (h : exec i s = .next t) : RsuEnds s t := by
  cases i <;> cases hu
  case cwClr => cases h; exact ⟨_, .cleared, ends_respond _ _ _ _⟩
  case cwPush => exact execCwPush_change h
  case cwRd => cases h; exact ⟨_, .same, ends_checked _ _ _ _ _ _ _ _⟩
  case rsEnc => exact execRsEnc_change h
  case rsDec => exact execRsDec_change h
  case ilvSplit => exact execIlvSplit_change h
  case ilvMerge => exact execIlvMerge_change h

/-! ### Frame marker unit -/

/-- What stage `DONE` publishes (R220). -/
def frameParsed (h : Header) (body : List Byte) (s : State) : State :=
  { s with fmu := { s.fmu with
      parseState := .done
      hdrFrameId := h.fid, hdrTotal := h.tot, hdrPaylen := h.len, hdrCksum := h.ck
      fbuf := Mem.writeList s.fmu.fbuf 0 body
      fbLen := BitVec.ofNat 16 body.length } }

/-- What a command does to the frame marker unit (42_frame_marker.md R200 to R222, 40_control_commands.md R131, R133). -/
inductive FmuChange (s : State) : FmuState → Prop
  | same : FmuChange s s.fmu
  /-- `CFG_WR` with a legal value. -/
  | configured (r : Reg) (lo hi : Nat) (v : BitVec 32) (hr : legalRange r = some (lo, hi)) (hlo : lo ≤ v.toNat)
      (hhi : v.toNat ≤ hi) : FmuChange s (writeReg s r v).fmu
  /-- `SOFT_RESET`. -/
  | reset : FmuChange s (softResetState s).fmu
  /-- `GRID_WR`. -/
  | gridWritten (i : Nat) (v : BitVec 3) (hi : i < gridBound s) (hv : v.toNat < paletteBound s) :
      FmuChange s { s.fmu with grid := Mem.write s.fmu.grid i v }
  /-- `TMPL_WR`. -/
  | tmplWritten (i : Nat) (resv : BitVec 1) (tval : BitVec 3) (hi : i < gridBound s) (hv : tval.toNat < paletteBound s) :
      FmuChange s { s.fmu with tmpl := Mem.write s.fmu.tmpl i (tmplElement resv tval) }
  /-- `FB_WR`. -/
  | byteWritten (i : Nat) (v : BitVec 8) (hi : i < Config.fbSize) :
      FmuChange s { s.fmu with fbuf := Mem.write s.fmu.fbuf i v }
  /-- `FR_DETECT`. -/
  | scored : FmuChange s (recordScore (geom s) s).fmu
  /-- `FR_PARSE`, its last stage `st`. -/
  | staged (st : ParseStage) : FmuChange s (enterStage st (recordScore (geom s) s)).fmu
  /-- `FR_PARSE`, all stages. -/
  | parsed (h : Header) (body : List Byte) (hbody : body.length = availBytes (geom s)) :
      FmuChange s (frameParsed h body (recordScore (geom s) s)).fmu
  /-- `FR_FORMAT`. -/
  | formatted (bits : List Bool) (ck : BitVec 16) :
      FmuChange s { s.fmu with
        grid := placeBits (geom s) bits (placeFinder (geom s) s s.fmu.grid)
        hdrCksum := ck
        frRcnt := BitVec.ofNat 16 (rcnt (geom s)) }

/-- `t` is `s` with the frame marker unit changed as one of its commands may, and the command ended. -/
def FmuEnds (s t : State) : Prop := ∃ f, FmuChange s f ∧ Ends { s with fmu := f } t

theorem execGridWr_change {idx : BitVec 16} {val : BitVec 3} {s t : State} (h : execGridWr idx val s = .next t) :
    FmuEnds s t := by
  simp only [execGridWr, Host.Outcome.next.injEq] at h
  subst h
  split_ifs with hi hv
  · exact ⟨_, .same, ends_raise _ _ _ _⟩
  · exact ⟨_, .same, ends_raise _ _ _ _⟩
  · exact ⟨_, .gridWritten idx.toNat val (by omega) (by omega), ends_respond _ _ _ _⟩

theorem execTmplWr_change {idx : BitVec 16} {resv : BitVec 1} {tval : BitVec 3} {s t : State}
    (h : execTmplWr idx resv tval s = .next t) : FmuEnds s t := by
  simp only [execTmplWr, Host.Outcome.next.injEq] at h
  subst h
  split_ifs with hi hv
  · exact ⟨_, .same, ends_raise _ _ _ _⟩
  · exact ⟨_, .same, ends_raise _ _ _ _⟩
  · exact ⟨_, .tmplWritten idx.toNat resv tval (by omega) (by omega), ends_respond _ _ _ _⟩

theorem execFbWr_change {idx : BitVec 16} {val : BitVec 8} {s t : State} (h : execFbWr idx val s = .next t) :
    FmuEnds s t := by
  simp only [execFbWr, Host.Outcome.next.injEq] at h
  subst h
  split_ifs with hi
  · exact ⟨_, .same, ends_raise _ _ _ _⟩
  · exact ⟨_, .byteWritten idx.toNat val (by omega), ends_respond _ _ _ _⟩

theorem execFrDetect_change {s t : State} (h : execFrDetect s = .next t) : FmuEnds s t := by
  simp only [execFrDetect, Host.Outcome.next.injEq] at h
  subst h
  split_ifs
  · exact ⟨_, .same, ends_raise _ _ _ _⟩
  · exact ⟨_, .scored, ends_raise _ _ _ _⟩
  · exact ⟨_, .scored, ends_respond _ _ _ _⟩

theorem bodyOf_length (bits : List Bool) (avail : Nat) : (bodyOf bits avail).length = avail := by simp [bodyOf]

theorem stageDone_ends (h : Header) (body : List Byte) (s : State) : Ends (frameParsed h body s) (stageDone h body s) :=
  ends_respond _ _ _ _

/-- From `EXTRACTING_PAYLOAD` on (R219, R220): the payload does not fit, or the frame is published. -/
theorem stagePayload_cases (g : Geom) (bits : List Bool) (h : Header) (s : State) :
    Ends (enterStage .extractingPayload s) (stagePayload g bits h s)
      ∨ ∃ body, body.length = availBytes g ∧ Ends (frameParsed h body s) (stagePayload g bits h s) := by
  simp only [stagePayload]
  split_ifs
  · exact .inl (ends_raise _ _ _ _)
  · exact .inr ⟨_, bodyOf_length bits _, stageDone_ends h _ _⟩

/-- From `EXTRACTING_HEADER` on (R217, R218): the first stage to fail is the last entered, or the frame is published. -/
theorem stageHeader_cases (g : Geom) (s : State) :
    (∃ st, Ends (enterStage st s) (stageHeader g s))
      ∨ ∃ h body, body.length = availBytes g ∧ Ends (frameParsed h body s) (stageHeader g s) := by
  simp only [stageHeader, stageChecksum]
  split_ifs
  · exact .inl ⟨.validatingChecksum, ends_raise _ _ _ _⟩
  · obtain hfail | ⟨body, hlen, hdone⟩ := stagePayload_cases g (gridBits g (enterStage .extractingHeader s))
      (headerOf (gridBits g (enterStage .extractingHeader s)))
      (enterStage .validatingChecksum (enterStage .extractingHeader s))
    · exact .inl ⟨.extractingPayload, hfail⟩
    · exact .inr ⟨_, body, hlen, hdone⟩

theorem stageFinder_change (s : State) : FmuEnds s (stageFinder (geom s) s) := by
  simp only [stageFinder]
  split_ifs
  · exact ⟨_, .staged .detectingFinder, ends_raise _ _ _ _⟩
  · obtain ⟨st, hfail⟩ | ⟨h, body, hlen, hdone⟩ :=
      stageHeader_cases (geom s) (recordScore (geom s) (enterStage .detectingFinder s))
    · exact ⟨_, .staged st, hfail⟩
    · exact ⟨_, .parsed h body hlen, hdone⟩

theorem execFrParse_change {s t : State} (h : execFrParse s = .next t) : FmuEnds s t := by
  simp only [execFrParse, Host.Outcome.next.injEq] at h
  subst h
  split_ifs
  · exact ⟨_, .same, ends_raise _ _ _ _⟩
  · exact ⟨_, .same, ends_raise _ _ _ _⟩
  · exact stageFinder_change s

theorem execFrFormat_change {s t : State} (h : execFrFormat s = .next t) : FmuEnds s t := by
  simp only [execFrFormat, Host.Outcome.next.injEq] at h
  subst h
  split_ifs
  · exact ⟨_, .same, ends_raise _ _ _ _⟩
  · exact ⟨_, .same, ends_raise _ _ _ _⟩
  · exact ⟨_, .formatted _ _, ends_respond _ _ _ _⟩

theorem exec_fmu_cases {i : Instr} {s t : State} (hu : unitOf i = .fmu) (h : exec i s = .next t) : FmuEnds s t := by
  cases i <;> cases hu
  case gridWr => exact execGridWr_change h
  case gridRd => cases h; exact ⟨_, .same, ends_checked _ _ _ _ _ _ _ _⟩
  case tmplWr => exact execTmplWr_change h
  case tmplRd => cases h; exact ⟨_, .same, ends_checked _ _ _ _ _ _ _ _⟩
  case fbWr => exact execFbWr_change h
  case fbRd => cases h; exact ⟨_, .same, ends_checked _ _ _ _ _ _ _ _⟩
  case frDetect => exact execFrDetect_change h
  case frParse => exact execFrParse_change h
  case frFormat => exact execFrFormat_change h

/-! ### Audio preamble correlator -/

/-- What a command does to the correlator (43_audio_correlator.md R250 to R257, 40_control_commands.md R131, R133). -/
inductive ApcChange (s : State) : ApcState → Prop
  | same : ApcChange s s.apc
  /-- `CFG_WR` with a legal value. -/
  | configured (r : Reg) (lo hi : Nat) (v : BitVec 32) (hr : legalRange r = some (lo, hi)) (hlo : lo ≤ v.toNat)
      (hhi : v.toNat ≤ hi) : ApcChange s (writeReg s r v).apc
  /-- `SOFT_RESET`. -/
  | reset : ApcChange s (softResetState s).apc
  /-- `AB_WR`. -/
  | sampleWritten (i : Nat) (v : BitVec 16) (hi : i < Config.abSize) :
      ApcChange s { s.apc with abuf := Mem.write s.apc.abuf i v }
  /-- `PT_WR`. -/
  | templateWritten (i : Nat) (v : BitVec 16) (hi : i < Config.ptSize) :
      ApcChange s { s.apc with ptmpl := Mem.write s.apc.ptmpl i v }
  /-- `AU_CORR`. -/
  | peaked (lo : BitVec 32) (hi : BitVec 16) (lag : BitVec 12) :
      ApcChange s { s.apc with auPeakLo := lo, auPeakHi := hi, auLag := lag }

/-- `t` is `s` with the correlator changed as one of its commands may, and the command ended. -/
def ApcEnds (s t : State) : Prop := ∃ a, ApcChange s a ∧ Ends { s with apc := a } t

theorem execAbWr_change {idx val : BitVec 16} {s t : State} (h : execAbWr idx val s = .next t) : ApcEnds s t := by
  simp only [execAbWr, Host.Outcome.next.injEq] at h
  subst h
  split_ifs with hi
  · exact ⟨_, .same, ends_raise _ _ _ _⟩
  · exact ⟨_, .sampleWritten idx.toNat val (by omega), ends_respond _ _ _ _⟩

theorem execPtWr_change {idx val : BitVec 16} {s t : State} (h : execPtWr idx val s = .next t) : ApcEnds s t := by
  simp only [execPtWr, Host.Outcome.next.injEq] at h
  subst h
  split_ifs with hi
  · exact ⟨_, .same, ends_raise _ _ _ _⟩
  · exact ⟨_, .templateWritten idx.toNat val (by omega), ends_respond _ _ _ _⟩

theorem execAuCorr_change {s t : State} (h : execAuCorr s = .next t) : ApcEnds s t := by
  simp only [execAuCorr, Host.Outcome.next.injEq] at h
  subst h
  split_ifs
  · exact ⟨_, .same, ends_raise _ _ _ _⟩
  · exact ⟨_, .same, ends_raise _ _ _ _⟩
  · exact ⟨_, .peaked _ _ _, ends_raise _ _ _ _⟩
  · exact ⟨_, .peaked _ _ _, ends_respond _ _ _ _⟩

theorem exec_apc_cases {i : Instr} {s t : State} (hu : unitOf i = .apc) (h : exec i s = .next t) : ApcEnds s t := by
  cases i <;> cases hu
  case abWr => exact execAbWr_change h
  case abRd => cases h; exact ⟨_, .same, ends_checked _ _ _ _ _ _ _ _⟩
  case ptWr => exact execPtWr_change h
  case ptRd => cases h; exact ⟨_, .same, ends_checked _ _ _ _ _ _ _ _⟩
  case auCorr => exact execAuCorr_change h

/-! ### Channel synchroniser -/

@[simp] theorem makeRoomV_units (s : State) :
    (makeRoomV s).rsu = s.rsu ∧ (makeRoomV s).fmu = s.fmu ∧ (makeRoomV s).apc = s.apc := by
  obtain ⟨_, h⟩ | ⟨_, h⟩ := makeRoomV_cases s <;> simp [h]

@[simp] theorem makeRoomA_units (s : State) :
    (makeRoomA s).rsu = s.rsu ∧ (makeRoomA s).fmu = s.fmu ∧ (makeRoomA s).apc = s.apc := by
  obtain ⟨_, h⟩ | ⟨_, h⟩ := makeRoomA_cases s <;> simp [h]

/-- The state in which an accepted visual observation is entered: old entries gone, room made (R280). -/
def readyV (ts : BitVec 32) (s : State) : State := makeRoomV (evict ts s)

/-- The state in which an accepted audio observation is entered (R281). -/
def readyA (ts : BitVec 32) (s : State) : State := makeRoomA (evict ts s)

/-- A visual entry that matches: it enters as used, and its audio partner becomes used (R275). -/
def enterMatchedV (id : BitVec 24) (ts : BitVec 32) (s : State) : State :=
  { s with csu := { s.csu with
      vh := s.csu.vh ++ [{ id := id, ts := ts, used := true }]
      ah := markUsed id s.csu.ah } }

/-- An audio entry that matches (R275). -/
def enterMatchedA (id : BitVec 24) (ts : BitVec 32) (s : State) : State :=
  { s with csu := { s.csu with
      ah := s.csu.ah ++ [{ id := id, ts := ts, used := true }]
      vh := markUsed id s.csu.vh } }

/-- A visual entry without a partner; `NOMATCH` counts it (R279). -/
def enterLoneV (id : BitVec 24) (ts : BitVec 32) (s : State) : State :=
  { s with csu := { s.csu with
      vh := s.csu.vh ++ [{ id := id, ts := ts, used := false }]
      noMatch := bumpNoMatch s.csu.noMatch } }

/-- An audio entry without a partner. -/
def enterLoneA (id : BitVec 24) (ts : BitVec 32) (s : State) : State :=
  { s with csu := { s.csu with ah := s.csu.ah ++ [{ id := id, ts := ts, used := false }] } }

/-- One more visual entry without a partner reaches the limit of R279. -/
def tooManyMisses (s : State) : Prop :=
  s.csu.resyncN ≠ 0 ∧ s.csu.resyncN.toNat ≤ (bumpNoMatch s.csu.noMatch).toNat

/-- How `CS_OBSERVE_V` can end (R280). -/
inductive VisualOutcome (id : BitVec 24) (ts : BitVec 32) (s : State) : State → Prop
  | pending (hreq : resyncReq s = true) : VisualOutcome id ts s (raise .resyncRequired 0 0 s)
  | duplicate (hreq : resyncReq s = false) (hdup : hasId id (evict ts s).csu.vh = true) :
      VisualOutcome id ts s (respond .ok (observeFlags false true false) 0 (evict ts s))
  | matched (a : HistEntry) (hreq : resyncReq s = false) (hnew : hasId id (evict ts s).csu.vh = false)
      (hfind : (readyV ts s).csu.ah.find? (isCandidate id) = some a) :
      VisualOutcome id ts s
        (respond .ok (observeFlags (isFull (evict ts s).csu.vh) false true) (wrap 32 (sdiff32 a.ts ts))
          (estimate (sdiff32 a.ts ts) ts (enterMatchedV id ts (readyV ts s))))
  | lost (hreq : resyncReq s = false) (hnew : hasId id (evict ts s).csu.vh = false)
      (hfind : (readyV ts s).csu.ah.find? (isCandidate id) = none) (hcount : tooManyMisses (readyV ts s)) :
      VisualOutcome id ts s
        (raise .resyncRequired (observeFlags (isFull (evict ts s).csu.vh) false false)
          ((bumpNoMatch (readyV ts s).csu.noMatch).setWidth 32) (setEvents 0b001 (enterLoneV id ts (readyV ts s))))
  | lone (hreq : resyncReq s = false) (hnew : hasId id (evict ts s).csu.vh = false)
      (hfind : (readyV ts s).csu.ah.find? (isCandidate id) = none) (hcount : ¬ tooManyMisses (readyV ts s)) :
      VisualOutcome id ts s
        (respond .ok (observeFlags (isFull (evict ts s).csu.vh) false false) 0 (enterLoneV id ts (readyV ts s)))

/-- How `CS_OBSERVE_A` can end (R281). -/
inductive AudioOutcome (id : BitVec 24) (ts : BitVec 32) (s : State) : State → Prop
  | pending (hreq : resyncReq s = true) : AudioOutcome id ts s (raise .resyncRequired 0 0 s)
  | duplicate (hreq : resyncReq s = false) (hdup : hasId id (evict ts s).csu.ah = true) :
      AudioOutcome id ts s (respond .ok (observeFlags false true false) 0 (evict ts s))
  | matched (v : HistEntry) (hreq : resyncReq s = false) (hnew : hasId id (evict ts s).csu.ah = false)
      (hfind : (readyA ts s).csu.vh.find? (isCandidate id) = some v) :
      AudioOutcome id ts s
        (respond .ok (observeFlags (isFull (evict ts s).csu.ah) false true) (wrap 32 (sdiff32 ts v.ts))
          (estimate (sdiff32 ts v.ts) v.ts (enterMatchedA id ts (readyA ts s))))
  | lone (hreq : resyncReq s = false) (hnew : hasId id (evict ts s).csu.ah = false)
      (hfind : (readyA ts s).csu.vh.find? (isCandidate id) = none) :
      AudioOutcome id ts s
        (respond .ok (observeFlags (isFull (evict ts s).csu.ah) false false) 0 (enterLoneA id ts (readyA ts s)))

theorem execCsObserveV_outcome {id : BitVec 24} {ts : BitVec 32} {s t : State} (h : execCsObserveV id ts s = .next t) :
    VisualOutcome id ts s t := by
  simp only [execCsObserveV, Host.Outcome.next.injEq] at h
  subst h
  split
  case isTrue hreq => exact .pending hreq
  case isFalse hreq =>
    split
    case isTrue hdup => exact .duplicate (eq_false_of_ne_true hreq) hdup
    case isFalse hdup =>
      split
      case h_1 a hfind => exact .matched a (eq_false_of_ne_true hreq) (eq_false_of_ne_true hdup) hfind
      case h_2 hfind =>
        split
        case isTrue hn => exact .lost (eq_false_of_ne_true hreq) (eq_false_of_ne_true hdup) hfind hn
        case isFalse hn => exact .lone (eq_false_of_ne_true hreq) (eq_false_of_ne_true hdup) hfind hn

theorem execCsObserveA_outcome {id : BitVec 24} {ts : BitVec 32} {s t : State} (h : execCsObserveA id ts s = .next t) :
    AudioOutcome id ts s t := by
  simp only [execCsObserveA, Host.Outcome.next.injEq] at h
  subst h
  split
  case isTrue hreq => exact .pending hreq
  case isFalse hreq =>
    split
    case isTrue hdup => exact .duplicate (eq_false_of_ne_true hreq) hdup
    case isFalse hdup =>
      split
      case h_1 v hfind => exact .matched v (eq_false_of_ne_true hreq) (eq_false_of_ne_true hdup) hfind
      case h_2 hfind => exact .lone (eq_false_of_ne_true hreq) (eq_false_of_ne_true hdup) hfind

/-- What a command of the channel synchroniser does, with the observation commands named apart (R280 to R285). -/
inductive CsuOutcome (s : State) : Instr → State → Prop
  /-- `CS_DRIFT`, `CS_ALIGN`, `CS_HIST_RD`. -/
  | read (i : Instr) (t : State) (hi : isRead i = true) (ht : Ends s t) : CsuOutcome s i t
  | resynced (t : State) (ht : Ends (acknowledgeResync s) t) : CsuOutcome s .csResync t
  | visual (id : BitVec 24) (ts : BitVec 32) (t : State) (ht : VisualOutcome id ts s t) :
      CsuOutcome s (.csObserveV id ts) t
  | audio (id : BitVec 24) (ts : BitVec 32) (t : State) (ht : AudioOutcome id ts s t) :
      CsuOutcome s (.csObserveA id ts) t

theorem execCsDrift_ends {sel : BitVec 2} {s t : State} (h : execCsDrift sel s = .next t) : Ends s t := by
  simp only [execCsDrift, Host.Outcome.next.injEq] at h
  subst h
  split <;> exact ends_respond _ _ _ _

theorem execCsHistRd_ends {ch sel : BitVec 1} {idx : BitVec 8} {s t : State} (h : execCsHistRd ch sel idx s = .next t) :
    Ends s t := by
  simp only [execCsHistRd, Host.Outcome.next.injEq] at h
  subst h
  split
  · exact ends_raise _ _ _ _
  · exact ends_respond _ _ _ _

theorem exec_csu_cases {i : Instr} {s t : State} (hu : unitOf i = .csu) (h : exec i s = .next t) :
    CsuOutcome s i t := by
  cases i <;> cases hu
  case csObserveV => exact .visual _ _ _ (execCsObserveV_outcome h)
  case csObserveA => exact .audio _ _ _ (execCsObserveA_outcome h)
  case csDrift => exact .read _ _ rfl (execCsDrift_ends h)
  case csAlign => cases h; exact .read _ _ rfl (ends_respond _ _ _ _)
  case csResync => cases h; exact .resynced _ (ends_respond _ _ _ _)
  case csHistRd => exact .read _ _ rfl (execCsHistRd_ends h)

theorem VisualOutcome.units {id : BitVec 24} {ts : BitVec 32} {s t : State} (h : VisualOutcome id ts s t) :
    t.rsu = s.rsu ∧ t.fmu = s.fmu ∧ t.apc = s.apc := by
  cases h <;> simp [readyV, enterMatchedV, enterLoneV]

theorem AudioOutcome.units {id : BitVec 24} {ts : BitVec 32} {s t : State} (h : AudioOutcome id ts s t) :
    t.rsu = s.rsu ∧ t.fmu = s.fmu ∧ t.apc = s.apc := by
  cases h <;> simp [readyA, enterMatchedA, enterLoneA]

/-- A command of the channel synchroniser leaves the other units alone (70_reset_and_hazards.md R361). -/
theorem CsuOutcome.units {i : Instr} {s t : State} (h : CsuOutcome s i t) :
    t.rsu = s.rsu ∧ t.fmu = s.fmu ∧ t.apc = s.apc := by
  cases h with
  | read _ _ _ ht => exact ⟨ht.rsu, ht.fmu, ht.apc⟩
  | resynced _ ht => exact ⟨ht.rsu, ht.fmu, ht.apc⟩
  | visual _ _ _ ht => exact ht.units
  | audio _ _ _ ht => exact ht.units

/-! ### Every command, unit by unit -/

/-- Whatever the command, it changes each of the three units with memories in one of the ways said above. -/
theorem exec_changes {i : Instr} {s t : State} (h : exec i s = .next t) :
    RsuChange s t.rsu ∧ FmuChange s t.fmu ∧ ApcChange s t.apc := by
  cases hu : unitOf i with
  | ctl =>
    obtain ⟨u, hc, he⟩ := exec_ctl_cases hu h
    rw [he.rsu, he.fmu, he.apc]
    cases hc with
    | configured _ r lo hi v _ hv hlo hhi =>
      exact ⟨.configured r lo hi v hv hlo hhi, .configured r lo hi v hv hlo hhi, .configured r lo hi v hv hlo hhi⟩
    | reset => exact ⟨.reset, .reset, .reset⟩
    | nop | readReg | refused | cleared => exact ⟨.same, .same, .same⟩
  | rsu =>
    obtain ⟨r, hc, he⟩ := exec_rsu_cases hu h
    rw [he.rsu, he.fmu, he.apc]
    exact ⟨hc, .same, .same⟩
  | fmu =>
    obtain ⟨f, hc, he⟩ := exec_fmu_cases hu h
    rw [he.rsu, he.fmu, he.apc]
    exact ⟨.same, hc, .same⟩
  | apc =>
    obtain ⟨a, hc, he⟩ := exec_apc_cases hu h
    rw [he.rsu, he.fmu, he.apc]
    exact ⟨.same, .same, hc⟩
  | csu =>
    obtain ⟨hr, hf, ha⟩ := (exec_csu_cases hu h).units
    rw [hr, hf, ha]
    exact ⟨.same, .same, .same⟩

/-! ### One step -/

/-- A property that does not look at the waiting words, holds after a reset pulse, and is kept by an illegal word and by every
command, is kept by every step (30_encoding.md R103, R104, R106; 70_reset_and_hazards.md R350). -/
theorem step_keeps {P : State → Prop} (hinputs : ∀ s inputs, P s → P { s with inputs := inputs })
    (hreset : ∀ s, P (hardReset s)) (hillegal : ∀ s, P s → P (raise .illegalCommand 0 0 s))
    (hexec : ∀ i s t, P s → exec i s = .next t → P t) {s t : State} (hs : P s) (h : step s = .next t) : P t := by
  unfold step at h
  cases hin : s.inputs with
  | nil =>
    rw [fetch_nil s hin] at h
    cases h
    exact hs
  | cons x rest =>
    rw [fetch_cons x rest s hin] at h
    cases x with
    | hardReset => cases h; exact hreset _
    | command w =>
      cases hd : decode w with
      | ok i => simp only [hd] at h; exact hexec i _ t (hinputs s rest hs) h
      | error _ => simp only [hd] at h; cases h; exact hillegal _ (hinputs s rest hs)

end Sys2Proof.Proofs

/-! Proofs, part 2: every step keeps memories, registers and counts in range (O56). -/

namespace Sys2Proof.Proofs

open Sys2Proof Sys2Proof.Machine Sys2Proof.Safety

/-! ### Slices (41_rs_fec.md R170) -/

/-- Slice `f` has one symbol more than the quotient while `f` is below the remainder. -/
theorem sliceLen_eq {n d f : Nat} (hf : f < d) : sliceLen n d f = n / d + if f < n % d then 1 else 0 := by
  have hd : 0 < d := by omega
  have hn := Nat.div_add_mod n d
  unfold sliceLen cdiv
  split_ifs with hr
  · rw [show n - f + (d - 1) = (n % d - f - 1) + d * (n / d + 1) by rw [Nat.mul_add]; omega,
      Nat.add_mul_div_left _ _ hd, Nat.div_eq_of_lt (by have := Nat.mod_lt n hd; omega)]
    omega
  · by_cases hq : n / d = 0
    · rw [hq] at hn ⊢
      rw [Nat.div_eq_of_lt (by omega)]
    · have hle : d ≤ d * (n / d) := Nat.le_mul_of_pos_right d (Nat.pos_of_ne_zero hq)
      rw [show n - f + (d - 1) = (n % d + (d - 1) - f) + d * (n / d) by have := Nat.mod_lt n hd; omega,
        Nat.add_mul_div_left _ _ hd, Nat.div_eq_of_lt (by omega)]
      omega

theorem sliceOff_succ (n d f : Nat) : sliceOff n d (f + 1) = sliceOff n d f + sliceLen n d f := by
  simp [sliceOff, List.range_succ]

/-- The slices before `f` hold a full row each, and the longer ones a symbol more. -/
theorem sliceOff_eq {n d f : Nat} (hf : f ≤ d) : sliceOff n d f = f * (n / d) + min f (n % d) := by
  induction f with
  | zero => simp [sliceOff]
  | succ f ih =>
    rw [sliceOff_succ, ih (by omega), sliceLen_eq (by omega), Nat.succ_mul]
    split_ifs <;> omega

/-- `sigma` stays inside the block. -/
theorem sigma_lt {n d j : Nat} (hd : 0 < d) (hj : j < n) : sigma n d j < n := by
  have hf : j % d < d := Nat.mod_lt j hd
  have hslice : j / d < sliceLen n d (j % d) := by
    rw [sliceLen_eq hf]
    have hq : j / d ≤ n / d := Nat.div_le_div_right hj.le
    split_ifs with hr
    · omega
    · have hn := Nat.div_add_mod n d
      have hj' := Nat.div_add_mod j d
      rcases hq.lt_or_eq with hlt | heq
      · omega
      · rw [heq] at hj'; omega
  have hend : sliceOff n d (j % d + 1) ≤ n := by
    rw [sliceOff_eq hf]
    calc (j % d + 1) * (n / d) + min (j % d + 1) (n % d) ≤ d * (n / d) + n % d :=
          Nat.add_le_add (Nat.mul_le_mul_right _ hf) (min_le_right _ _)
      _ = n := Nat.div_add_mod n d
  rw [sliceOff_succ] at hend
  unfold sigma
  omega

/-! ### Memories and registers -/

theorem toNat_ofNat_le {w a b : Nat} (h : a ≤ b) : (BitVec.ofNat w a).toNat ≤ b :=
  (Nat.mod_le _ _).trans h

theorem memOk_write {w n : Nat} {m : Mem w} (h : memOk m n) {i : Nat} (hi : i < n) (v : BitVec w) :
    memOk (Mem.write m i v) n :=
  ⟨Mem.wf_write m i v h.1, Mem.within_write m i v n hi h.2⟩

theorem memOk_writeList {w n : Nat} {m : Mem w} (h : memOk m n) {base : Nat} {vs : List (BitVec w)}
    (hb : base + vs.length ≤ n) : memOk (Mem.writeList m base vs) n :=
  ⟨Mem.wf_writeList vs m base h.1, Mem.within_writeList vs n m base hb h.2⟩

theorem memOk_writeCells {n : Nat} (cells : List (Nat × BitVec 3)) {m : Mem 3} (h : memOk m n)
    (hcells : ∀ c ∈ cells, c.1 < n) : memOk (writeCells m cells) n := by
  unfold writeCells
  induction cells generalizing m with
  | nil => exact h
  | cons c cells ih =>
    exact ih (memOk_write h (hcells c (by simp)) c.2) fun c' hc' => hcells c' (by simp [hc'])

theorem memOk_nil {w n : Nat} : memOk ([] : Mem w) n := ⟨rfl, rfl⟩

/-! ### Reed-Solomon unit -/

/-- The part of the invariant that speaks of the Reed-Solomon unit. -/
structure RsuInRange (r : RsuState) : Prop where
  cw : memOk r.cw Config.nCwMax
  era : memOk r.era Config.nCwMax
  ratio : 25 ≤ r.rsRpct.toNat ∧ r.rsRpct.toNat ≤ 50
  depth : 2 ≤ r.ilvD.toNat ∧ r.ilvD.toNat ≤ 16
  len : r.cwLen.toNat ≤ 256

theorem wrongCount_eq_false {s : State} {k : BitVec 8} (h : wrongCount s k = false) :
    k.toNat + parityOf s k ≤ Config.nCwMax ∧ s.rsu.cwLen.toNat = k.toNat + parityOf s k := by
  simp only [wrongCount, Bool.or_eq_false_iff, decide_eq_false_iff_not, not_lt, bne_eq_false_iff_eq] at h
  obtain ⟨⟨_, hfit⟩, hlen⟩ := h
  exact ⟨hfit, hlen⟩

theorem correctFrom_length {n : Nat} {omega psiDeriv : List Sym} (l : List (Sym × Bool × Bool)) :
    ∀ (j : Nat) (c : List Sym), correctFrom n omega psiDeriv j l = some c → c.length = l.length := by
  induction l with
  | nil => intro j c h; cases h; rfl
  | cons x l ih =>
    obtain ⟨r, e, root⟩ := x
    intro j c h
    unfold correctFrom at h
    split at h
    · split at h
      case h_1 v cs _ hcs => cases h; simp [ih _ _ hcs]
      case h_2 => cases h
    · split at h
      case h_1 cs hcs => cases h; simp [ih _ _ hcs]
      case h_2 => cases h

/-- What the decoder answers is as long as the received word, is a codeword and is within the bound (41_rs_fec.md R159). -/
theorem decodeBlock_sound {p : Nat} {r : List Sym} {era : List Bool} {c : List Sym} {e : Nat}
    (hera : era.length = r.length) (h : decodeBlock p r era = some (c, e)) :
    c.length = r.length ∧ isCodeword p c = true ∧ e = errorCount r c era ∧ 2 * e + erasureCount era ≤ p := by
  simp only [decodeBlock] at h
  split_ifs at h
  split at h
  case h_1 => cases h
  case h_2 c' hc =>
    split_ifs at h with hok
    cases h
    rw [Bool.and_eq_true, decide_eq_true_eq] at hok
    exact ⟨by simpa [hera] using correctFrom_length _ _ _ hc, hok.1, rfl, hok.2⟩

theorem cwSymbols_length (s : State) (n : Nat) : (cwSymbols s n).length = n := by simp [cwSymbols]

theorem eraMarks_length (s : State) (n : Nat) : (eraMarks s n).length = n := by simp [eraMarks]

/-- One write of `ILV_SPLIT` (R172). -/
def splitPlace (n d : Nat) (s : State) (t : RsuState) (j : Nat) : RsuState :=
  { t with
    cw := Mem.write t.cw (sigma n d j) (readCw s j)
    era := Mem.write t.era (sigma n d j) (readEra s j) }

theorem splitBlock_rsu (n d : Nat) (s : State) :
    (splitBlock n d s).rsu = (List.range n).foldl (splitPlace n d s) s.rsu := rfl

/-- What one write of `ILV_SPLIT` keeps, all of them keep. -/
theorem splitBlock_keeps {P : RsuState → Prop} {n d : Nat} {s : State}
    (hplace : ∀ r, ∀ j < n, P r → P (splitPlace n d s r j)) (h : P s.rsu) : P (splitBlock n d s).rsu := by
  rw [splitBlock_rsu]
  exact List.foldlRecOn _ _ h fun r hr j hj => hplace r j (List.mem_range.mp hj) hr

theorem RsuInRange.splitBlock {n d : Nat} {s : State} (h : RsuInRange s.rsu) (hn : n ≤ Config.nCwMax) (hd : 0 < d) :
    RsuInRange (splitBlock n d s).rsu :=
  splitBlock_keeps (fun _ _ hj hr =>
    { hr with
      cw := memOk_write hr.cw ((sigma_lt hd hj).trans_le hn) _
      era := memOk_write hr.era ((sigma_lt hd hj).trans_le hn) _ }) h

theorem RsuInRange.storeBlock {syms : List Sym} {marks : List Bool} {s : State} (h : RsuInRange s.rsu)
    (hsyms : syms.length ≤ Config.nCwMax) (hmarks : marks.length ≤ Config.nCwMax) :
    RsuInRange (storeBlock syms marks s).rsu :=
  { h with
    cw := memOk_writeList h.cw (by simpa using hsyms)
    era := memOk_writeList h.era (by simpa using hmarks) }

theorem RsuInRange.reset : RsuInRange RsuState.reset where
  cw := memOk_nil
  era := memOk_nil
  ratio := by decide
  depth := by decide
  len := by decide

theorem RsuInRange.writeReg {s : State} {r : Reg} {lo hi : Nat} {v : BitVec 32} (h : RsuInRange s.rsu)
    (hr : legalRange r = some (lo, hi)) (hlo : lo ≤ v.toNat) (hhi : v.toNat ≤ hi) : RsuInRange (writeReg s r v).rsu := by
  cases r <;> try exact h
  case rsRpct =>
    cases hr
    have hv : (v.setWidth 8).toNat = v.toNat := by rw [BitVec.toNat_setWidth, Nat.mod_eq_of_lt (by omega)]
    exact { h with ratio := by simpa [Machine.writeReg, hv] using ⟨hlo, hhi⟩ }
  case ilvD =>
    cases hr
    have hv : (v.setWidth 8).toNat = v.toNat := by rw [BitVec.toNat_setWidth, Nat.mod_eq_of_lt (by omega)]
    exact { h with depth := by simpa [Machine.writeReg, hv] using ⟨hlo, hhi⟩ }

theorem RsuInRange.of_change {s : State} {r : RsuState} (h : RsuInRange s.rsu) (hc : RsuChange s r) : RsuInRange r := by
  cases hc with
  | same => exact h
  | configured r lo hi v hr hlo hhi => exact h.writeReg hr hlo hhi
  | reset => exact { RsuInRange.reset with cw := h.cw, era := h.era }
  | cleared => exact { h with len := by simp }
  | overflowed => exact { h with len := by simp }
  | pushed sym era hlen =>
    exact { h with
      cw := memOk_write h.cw hlen sym
      era := memOk_write h.era hlen era
      len := toNat_ofNat_le (by omega) }
  | discarded => exact { h with len := by simp }
  | encoded k hfit hlen =>
    have hp : 0 < parityOf s k := parityCount_pos _ _
    exact { h with
      cw := memOk_writeList h.cw (by rw [paritySymbols_length _ _ hp]; exact hfit)
      era := memOk_writeList h.era (by simpa using hfit)
      len := toNat_ofNat_le (hfit.trans (by decide)) }
  | uncorrectable => exact { h with len := by simp }
  | decoded k c e hcount hdec =>
    obtain ⟨hfit, -⟩ := wrongCount_eq_false hcount
    obtain ⟨hclen, -⟩ := decodeBlock_sound (by rw [cwSymbols_length, eraMarks_length]) hdec
    rw [cwSymbols_length] at hclen
    exact { h with
      cw := memOk_writeList h.cw (by simpa [hclen] using hfit)
      era := memOk_writeList h.era (by simpa using hfit) }
  | split k hcount =>
    obtain ⟨hfit, -⟩ := wrongCount_eq_false hcount
    exact { h.splitBlock hfit (by have := h.depth.1; omega) with }
  | merged k lost hcount =>
    obtain ⟨hfit, -⟩ := wrongCount_eq_false hcount
    exact { h.storeBlock (by simpa using hfit) (by simpa [mergedMarks] using hfit) with }

/-! ### Frame marker unit -/

/-- The part of the invariant that speaks of the frame marker unit. -/
structure FmuInRange (f : FmuState) : Prop where
  grid : memOk f.grid Config.gridCells
  tmpl : memOk f.tmpl Config.gridCells
  fbuf : memOk f.fbuf Config.fbSize
  side : 1 ≤ f.gridN.toNat
  palette : 1 ≤ f.palBits.toNat
  rcnt : f.frRcnt.toNat ≤ 65025
  score : f.frScore.toNat ≤ 65025
  fbLen : f.fbLen.toNat ≤ Config.fbSize

theorem gridBound_le (s : State) : gridBound s ≤ Config.gridCells := by
  have hn : s.fmu.gridN.toNat ≤ 255 := by have := s.fmu.gridN.isLt; omega
  exact Nat.mul_le_mul hn hn

theorem lt_gridBound_of_mem_resv {s : State} {i : Nat} (h : i ∈ (geom s).resv) : i < gridBound s :=
  List.mem_range.mp (List.mem_of_mem_filter h)

theorem lt_gridBound_of_mem_m {s : State} {i : Nat} (h : i ∈ (geom s).m) : i < gridBound s :=
  List.mem_range.mp (List.mem_of_mem_filter h)

theorem rcnt_le (s : State) : rcnt (geom s) ≤ Config.gridCells :=
  ((List.length_filter_le _ _).trans_eq List.length_range).trans (gridBound_le s)

theorem score_le (s : State) : score (geom s) s ≤ Config.gridCells :=
  (List.length_filter_le _ _).trans (rcnt_le s)

/-- The bytes a frame can carry after its header fit the frame byte buffer (20_memory.md R74). -/
theorem availBytes_le (s : State) : availBytes (geom s) ≤ Config.fbSize := by
  have hm : (geom s).m.length ≤ 65025 :=
    ((List.length_filter_le _ _).trans_eq List.length_range).trans (gridBound_le s)
  have hb : (geom s).b ≤ 3 := by
    have h : s.fmu.palBits.toNat ≤ 3 := by have := s.fmu.palBits.isLt; omega
    exact h
  have hcap : capBits (geom s) ≤ 65025 * 3 := Nat.mul_le_mul hm hb
  show (capBits (geom s) - 72) / 8 ≤ 24384
  omega

theorem memOk_placeFinder {s : State} {m : Mem 3} (h : memOk m Config.gridCells) :
    memOk (placeFinder (geom s) s m) Config.gridCells := by
  refine memOk_writeCells _ h fun c hc => ?_
  obtain ⟨i, hi, rfl⟩ := List.mem_map.mp hc
  exact (lt_gridBound_of_mem_resv hi).trans_le (gridBound_le s)

theorem memOk_placeBits {s : State} (bits : List Bool) {m : Mem 3} (h : memOk m Config.gridCells) :
    memOk (placeBits (geom s) bits m) Config.gridCells :=
  memOk_writeCells _ h fun _ hc => (lt_gridBound_of_mem_m (List.of_mem_zip hc).1).trans_le (gridBound_le s)

theorem FmuInRange.recordScore {s : State} (h : FmuInRange s.fmu) : FmuInRange (recordScore (geom s) s).fmu :=
  { h with
    rcnt := toNat_ofNat_le (rcnt_le s)
    score := toNat_ofNat_le (score_le s) }

theorem FmuInRange.reset : FmuInRange FmuState.reset where
  grid := memOk_nil
  tmpl := memOk_nil
  fbuf := memOk_nil
  side := by decide
  palette := by decide
  rcnt := by decide
  score := by decide
  fbLen := by decide

theorem FmuInRange.writeReg {s : State} {r : Reg} {lo hi : Nat} {v : BitVec 32} (h : FmuInRange s.fmu)
    (hr : legalRange r = some (lo, hi)) (hlo : lo ≤ v.toNat) (hhi : v.toNat ≤ hi) : FmuInRange (writeReg s r v).fmu := by
  cases r <;> try exact { h with }
  case gridN =>
    cases hr
    have hv : (v.setWidth 8).toNat = v.toNat := by rw [BitVec.toNat_setWidth, Nat.mod_eq_of_lt (by omega)]
    exact { h with side := by simpa [Machine.writeReg, hv] using hlo }
  case palBits =>
    cases hr
    have hv : (v.setWidth 2).toNat = v.toNat := by rw [BitVec.toNat_setWidth, Nat.mod_eq_of_lt (by omega)]
    exact { h with palette := by simpa [Machine.writeReg, hv] using hlo }

theorem FmuInRange.of_change {s : State} {f : FmuState} (h : FmuInRange s.fmu) (hc : FmuChange s f) : FmuInRange f := by
  cases hc with
  | same => exact h
  | configured r lo hi v hr hlo hhi => exact h.writeReg hr hlo hhi
  | reset => exact { FmuInRange.reset with grid := h.grid, tmpl := h.tmpl, fbuf := h.fbuf }
  | gridWritten i v hi => exact { h with grid := memOk_write h.grid (hi.trans_le (gridBound_le s)) v }
  | tmplWritten i resv tval hi =>
    exact { h with tmpl := memOk_write h.tmpl (hi.trans_le (gridBound_le s)) (tmplElement resv tval) }
  | byteWritten i v hi => exact { h with fbuf := memOk_write h.fbuf hi v }
  | scored => exact h.recordScore
  | staged st => exact { h.recordScore with }
  | parsed hd body hbody =>
    have hfit : body.length ≤ Config.fbSize := hbody ▸ availBytes_le s
    exact { h.recordScore with
      fbuf := memOk_writeList h.fbuf (by simpa using hfit)
      fbLen := toNat_ofNat_le hfit }
  | formatted bits ck =>
    exact { h with
      grid := memOk_placeBits bits (memOk_placeFinder h.grid)
      rcnt := toNat_ofNat_le (rcnt_le s) }

/-! ### Audio preamble correlator -/

/-- The part of the invariant that speaks of the correlator. -/
structure ApcInRange (a : ApcState) : Prop where
  abuf : memOk a.abuf Config.abSize
  ptmpl : memOk a.ptmpl Config.ptSize
  abLen : a.abLen.toNat ≤ 4096
  ptLen : a.ptLen.toNat ≤ 1024

theorem ApcInRange.reset : ApcInRange ApcState.reset where
  abuf := memOk_nil
  ptmpl := memOk_nil
  abLen := by decide
  ptLen := by decide

theorem ApcInRange.writeReg {s : State} {r : Reg} {lo hi : Nat} {v : BitVec 32} (h : ApcInRange s.apc)
    (hr : legalRange r = some (lo, hi)) (hhi : v.toNat ≤ hi) : ApcInRange (writeReg s r v).apc := by
  cases r <;> try exact { h with }
  case abLen => cases hr; exact { h with abLen := (Nat.mod_le _ _).trans hhi }
  case ptLen => cases hr; exact { h with ptLen := (Nat.mod_le _ _).trans hhi }

theorem ApcInRange.of_change {s : State} {a : ApcState} (h : ApcInRange s.apc) (hc : ApcChange s a) : ApcInRange a := by
  cases hc with
  | same => exact h
  | configured r lo hi v hr _ hhi => exact h.writeReg hr hhi
  | reset => exact { ApcInRange.reset with abuf := h.abuf, ptmpl := h.ptmpl }
  | sampleWritten i v hi => exact { h with abuf := memOk_write h.abuf hi v }
  | templateWritten i v hi => exact { h with ptmpl := memOk_write h.ptmpl hi v }
  | peaked => exact { h with }

/-! ### The invariant -/

/-- The invariant of the statement, unit by unit. -/
theorem inRange_iff (s : State) :
    memoriesOk s ∧ registersOk s ∧ countersOk s ↔ RsuInRange s.rsu ∧ FmuInRange s.fmu ∧ ApcInRange s.apc := by
  constructor
  · rintro ⟨⟨hcw, hera, hgrid, htmpl, hfbuf, habuf, hptmpl⟩, ⟨hr1, hr2, hd1, hd2, hn, hb, hab, hpt, hlen⟩,
      hrc, hsc, hfb⟩
    exact ⟨⟨hcw, hera, ⟨hr1, hr2⟩, ⟨hd1, hd2⟩, hlen⟩, ⟨hgrid, htmpl, hfbuf, hn, hb, hrc, hsc, hfb⟩,
      ⟨habuf, hptmpl, hab, hpt⟩⟩
  · rintro ⟨⟨hcw, hera, ⟨hr1, hr2⟩, ⟨hd1, hd2⟩, hlen⟩, ⟨hgrid, htmpl, hfbuf, hn, hb, hrc, hsc, hfb⟩,
      ⟨habuf, hptmpl, hab, hpt⟩⟩
    exact ⟨⟨hcw, hera, hgrid, htmpl, hfbuf, habuf, hptmpl⟩, ⟨hr1, hr2, hd1, hd2, hn, hb, hab, hpt, hlen⟩,
      hrc, hsc, hfb⟩

/-- Settles O56: each unit's part of the invariant survives each of the ways a command changes the unit. -/
theorem stepKeepsMemoriesAndRegisters : Obligations.StepKeepsMemoriesAndRegisters := by
  unfold Obligations.StepKeepsMemoriesAndRegisters
  intro s t hs hstep
  rw [inRange_iff] at hs ⊢
  refine step_keeps (P := fun s => RsuInRange s.rsu ∧ FmuInRange s.fmu ∧ ApcInRange s.apc)
    (fun _ _ h => h) (fun _ => ⟨.reset, .reset, .reset⟩) (fun _ h => h) ?_ hs hstep
  rintro i s t ⟨hr, hf, ha⟩ h
  obtain ⟨hrc, hfc, hac⟩ := exec_changes h
  exact ⟨hr.of_change hrc, hf.of_change hfc, ha.of_change hac⟩

end Sys2Proof.Proofs

/-! Proofs, part 3: every step keeps the histories (O57). -/

namespace Sys2Proof.Proofs

open Sys2Proof Sys2Proof.Machine Sys2Proof.Safety

/-- No id twice, and no pair of one id both unused (44_channel_sync.md R274, R275). -/
structure Paired (h k : List HistEntry) : Prop where
  nodup : (h.map HistEntry.id).Nodup
  nodup' : (k.map HistEntry.id).Nodup
  pair : ∀ e ∈ h, ∀ f ∈ k, e.id = f.id → e.used = true ∨ f.used = true

/-- The invariant of the histories does not tell the channels apart. -/
theorem Paired.symm {h k : List HistEntry} (hp : Paired h k) : Paired k h where
  nodup := hp.nodup'
  nodup' := hp.nodup
  pair f hf e he hid := (hp.pair e he f hf hid.symm).symm

theorem Paired.of_sublist {h k h' k' : List HistEntry} (hp : Paired h k) (hh : h'.Sublist h) (hk : k'.Sublist k) :
    Paired h' k' where
  nodup := hp.nodup.sublist (hh.map _)
  nodup' := hp.nodup'.sublist (hk.map _)
  pair e he f hf := hp.pair e (hh.subset he) f (hk.subset hf)

theorem nodup_ids_append {id : BitVec 24} {ts : BitVec 32} {used : Bool} {h : List HistEntry}
    (hn : (h.map HistEntry.id).Nodup) (hnew : hasId id h = false) :
    ((h ++ [HistEntry.mk id ts used]).map HistEntry.id).Nodup := by
  rw [List.map_append]
  refine hn.append (List.nodup_singleton _) (List.disjoint_singleton.mpr fun hmem => ?_)
  obtain ⟨e, he, heid⟩ := List.mem_map.mp hmem
  simp only [hasId, List.any_eq_false, beq_iff_eq] at hnew
  exact hnew e he heid

/-- Marking an entry used only ever turns `used` on. -/
theorem exists_of_mem_markUsed {id : BitVec 24} {h : List HistEntry} {e : HistEntry} (he : e ∈ markUsed id h) :
    ∃ f ∈ h, f.id = e.id ∧ (f.used = true → e.used = true) := by
  induction h with
  | nil => cases he
  | cons f h ih =>
    unfold markUsed at he
    split at he
    all_goals obtain rfl | he := List.mem_cons.mp he
    · exact ⟨f, by simp, rfl, fun _ => rfl⟩
    · exact ⟨e, by simp [he], rfl, fun h => h⟩
    · exact ⟨e, by simp, rfl, fun h => h⟩
    · obtain ⟨g, hg, hgid, hused⟩ := ih he
      exact ⟨g, by simp [hg], hgid, hused⟩

/-- A new entry that matches enters as used, so it forms no unmatched pair. -/
theorem Paired.append_matched {id : BitVec 24} {ts : BitVec 32} {h k : List HistEntry} (hp : Paired h k)
    (hnew : hasId id h = false) : Paired (h ++ [{ id := id, ts := ts, used := true }]) (markUsed id k) where
  nodup := nodup_ids_append hp.nodup hnew
  nodup' := by rw [markUsed_ids]; exact hp.nodup'
  pair e he f hf hid := by
    obtain he | he := List.mem_append.mp he
    · obtain ⟨g, hg, hgid, hused⟩ := exists_of_mem_markUsed hf
      exact (hp.pair e he g hg (hid.trans hgid.symm)).imp_right hused
    · rw [List.mem_singleton.mp he]
      exact .inl rfl

/-- A new entry enters as unused only where no unused entry has its id. -/
theorem Paired.append_lone {id : BitVec 24} {ts : BitVec 32} {h k : List HistEntry} (hp : Paired h k)
    (hnew : hasId id h = false) (hfind : k.find? (isCandidate id) = none) :
    Paired (h ++ [{ id := id, ts := ts, used := false }]) k where
  nodup := nodup_ids_append hp.nodup hnew
  nodup' := hp.nodup'
  pair e he f hf hid := by
    obtain he | he := List.mem_append.mp he
    · exact hp.pair e he f hf hid
    · have hcand := List.find?_eq_none.mp hfind f hf
      rw [List.mem_singleton.mp he] at hid
      exact .inr (by simpa [isCandidate, ← hid] using hcand)

/-! ### The histories an observation finds -/

/-- A history after room for one entry has been made (R276). -/
def roomIn (h : List HistEntry) : List HistEntry := if isFull h then h.tail else h

theorem roomIn_sublist (h : List HistEntry) : (roomIn h).Sublist h := by
  unfold roomIn
  split_ifs
  · exact List.tail_sublist h
  · exact List.Sublist.refl h

theorem roomIn_length_lt {h : List HistEntry} (hlen : h.length ≤ 64) : (roomIn h).length < 64 := by
  unfold roomIn isFull
  split_ifs with hfull <;> simp [Config.histDepth] at hfull ⊢ <;> omega

theorem evictList_sublist (win : BitVec 31) (ts : BitVec 32) (h : List HistEntry) : (evictList win ts h).Sublist h :=
  List.filter_sublist

theorem hasId_of_sublist {id : BitVec 24} {h h' : List HistEntry} (hs : h'.Sublist h) (hnew : hasId id h = false) :
    hasId id h' = false := by
  simp only [hasId, List.any_eq_false] at hnew ⊢
  exact fun e he => hnew e (hs.subset he)

theorem makeRoomV_histories (s : State) : (makeRoomV s).csu.vh = roomIn s.csu.vh ∧ (makeRoomV s).csu.ah = s.csu.ah := by
  obtain ⟨hf, h⟩ | ⟨hf, h⟩ := makeRoomV_cases s <;> simp [h, roomIn, hf]

theorem makeRoomA_histories (s : State) : (makeRoomA s).csu.vh = s.csu.vh ∧ (makeRoomA s).csu.ah = roomIn s.csu.ah := by
  obtain ⟨hf, h⟩ | ⟨hf, h⟩ := makeRoomA_cases s <;> simp [h, roomIn, hf]

/-- The invariant of the histories. -/
structure HistoriesGood (vh ah : List HistEntry) : Prop where
  vlen : vh.length ≤ 64
  alen : ah.length ≤ 64
  paired : Paired vh ah

theorem historiesOk_iff (s : State) : historiesOk s ↔ HistoriesGood s.csu.vh s.csu.ah := by
  constructor
  · rintro ⟨hv, ha, hnv, hna, hpair⟩
    exact ⟨hv, ha, hnv, hna, hpair⟩
  · rintro ⟨hv, ha, hnv, hna, hpair⟩
    exact ⟨hv, ha, hnv, hna, hpair⟩

theorem HistoriesGood.symm {vh ah : List HistEntry} (h : HistoriesGood vh ah) : HistoriesGood ah vh :=
  ⟨h.alen, h.vlen, h.paired.symm⟩

theorem HistoriesGood.of_sublist {vh ah vh' ah' : List HistEntry} (h : HistoriesGood vh ah) (hv : vh'.Sublist vh)
    (ha : ah'.Sublist ah) : HistoriesGood vh' ah' :=
  ⟨hv.length_le.trans h.vlen, ha.length_le.trans h.alen, h.paired.of_sublist hv ha⟩

theorem HistoriesGood.nil : HistoriesGood [] [] := ⟨by simp, by simp, by simp, by simp, by simp⟩

/-- A matching entry enters a history in which room has been made. -/
theorem HistoriesGood.enter_matched {id : BitVec 24} {ts : BitVec 32} {h k : List HistEntry} (hg : HistoriesGood h k)
    (hnew : hasId id h = false) :
    HistoriesGood (roomIn h ++ [{ id := id, ts := ts, used := true }]) (markUsed id k) where
  vlen := by simpa using roomIn_length_lt hg.vlen
  alen := by
    have hids := congrArg List.length (markUsed_ids id k)
    simp only [List.length_map] at hids
    exact hids ▸ hg.alen
  paired := (hg.paired.of_sublist (roomIn_sublist h) (List.Sublist.refl k)).append_matched
    (hasId_of_sublist (roomIn_sublist h) hnew)

/-- An entry without a partner enters a history in which room has been made. -/
theorem HistoriesGood.enter_lone {id : BitVec 24} {ts : BitVec 32} {h k : List HistEntry} (hg : HistoriesGood h k)
    (hnew : hasId id h = false) (hfind : k.find? (isCandidate id) = none) :
    HistoriesGood (roomIn h ++ [{ id := id, ts := ts, used := false }]) k where
  vlen := by simpa using roomIn_length_lt hg.vlen
  alen := hg.alen
  paired := (hg.paired.of_sublist (roomIn_sublist h) (List.Sublist.refl k)).append_lone
    (hasId_of_sublist (roomIn_sublist h) hnew) hfind

/-! ### The invariant -/

theorem HistoriesGood.evict {s : State} (h : HistoriesGood s.csu.vh s.csu.ah) (ts : BitVec 32) :
    HistoriesGood (evict ts s).csu.vh (evict ts s).csu.ah :=
  h.of_sublist (evictList_sublist _ _ _) (evictList_sublist _ _ _)

theorem VisualOutcome.keeps_histories {id : BitVec 24} {ts : BitVec 32} {s t : State} (ho : VisualOutcome id ts s t)
    (h : HistoriesGood s.csu.vh s.csu.ah) : HistoriesGood t.csu.vh t.csu.ah := by
  obtain ⟨hv, ha⟩ := makeRoomV_histories (Machine.evict ts s)
  cases ho with
  | pending => exact h
  | duplicate => exact h.evict ts
  | matched a _ hnew =>
    simpa [readyV, enterMatchedV, hv, ha] using (h.evict ts).enter_matched (ts := ts) hnew
  | lost _ hnew hfind =>
    rw [readyV, ha] at hfind
    simpa [readyV, enterLoneV, hv, ha] using (h.evict ts).enter_lone (ts := ts) hnew hfind
  | lone _ hnew hfind =>
    rw [readyV, ha] at hfind
    simpa [readyV, enterLoneV, hv, ha] using (h.evict ts).enter_lone (ts := ts) hnew hfind

theorem AudioOutcome.keeps_histories {id : BitVec 24} {ts : BitVec 32} {s t : State} (ho : AudioOutcome id ts s t)
    (h : HistoriesGood s.csu.vh s.csu.ah) : HistoriesGood t.csu.vh t.csu.ah := by
  obtain ⟨hv, ha⟩ := makeRoomA_histories (Machine.evict ts s)
  cases ho with
  | pending => exact h
  | duplicate => exact h.evict ts
  | matched v _ hnew =>
    simpa [readyA, enterMatchedA, hv, ha] using ((h.evict ts).symm.enter_matched (ts := ts) hnew).symm
  | lone _ hnew hfind =>
    rw [readyA, hv] at hfind
    simpa [readyA, enterLoneA, hv, ha] using ((h.evict ts).symm.enter_lone (ts := ts) hnew hfind).symm

theorem CtlChange.keeps_histories {i : Instr} {s u : State} (hc : CtlChange s i u) (h : HistoriesGood s.csu.vh s.csu.ah) :
    HistoriesGood u.csu.vh u.csu.ah := by
  cases hc with
  | configured _ r _ _ v =>
    obtain ⟨⟨_, _, _, _, _, _, _, hv, ha, _⟩, _⟩ := writeReg_frame s r v
    rw [hv, ha]
    exact h
  | reset => exact .nil
  | nop | readReg | refused | cleared => exact h

theorem exec_keeps_histories {i : Instr} {s t : State} (h : HistoriesGood s.csu.vh s.csu.ah) (he : exec i s = .next t) :
    HistoriesGood t.csu.vh t.csu.ah := by
  cases hu : unitOf i with
  | ctl => obtain ⟨u, hc, ht⟩ := exec_ctl_cases hu he; rw [ht.csu]; exact hc.keeps_histories h
  | rsu => obtain ⟨r, _, ht⟩ := exec_rsu_cases hu he; rw [ht.csu]; exact h
  | fmu => obtain ⟨f, _, ht⟩ := exec_fmu_cases hu he; rw [ht.csu]; exact h
  | apc => obtain ⟨a, _, ht⟩ := exec_apc_cases hu he; rw [ht.csu]; exact h
  | csu =>
    cases exec_csu_cases hu he with
    | read _ _ _ ht => rw [ht.csu]; exact h
    | resynced _ ht => rw [ht.csu]; exact .nil
    | visual _ _ _ ht => exact ht.keeps_histories h
    | audio _ _ _ ht => exact ht.keeps_histories h

/-- Settles O57: an observation enters a history only after room has been made, under a new id, and unused only where it has no
partner; no other command touches the histories but to empty them. -/
theorem stepKeepsTheHistories : Obligations.StepKeepsTheHistories := by
  unfold Obligations.StepKeepsTheHistories
  intro s t hs hstep
  rw [historiesOk_iff] at hs ⊢
  exact step_keeps (P := fun s => HistoriesGood s.csu.vh s.csu.ah) (fun _ _ h => h) (fun _ => .nil) (fun _ h => h)
    (fun _ _ _ h he => exec_keeps_histories h he) hs hstep

end Sys2Proof.Proofs

/-! Proofs, part 4: the encoder leaves a codeword (41_rs_fec.md R151 to R157), for `CW_OK` (O58). -/

namespace Sys2Proof.Proofs

open Sys2Proof Sys2Proof.Machine Sys2Proof.Safety

/-! ### Multiplication is additive in each operand (R151) -/

/-- One reduction step takes sums to sums. -/
theorem reduceStep_xor {w : Nat} (p q c : BitVec w) (i : Nat) :
    (if (p ^^^ q).getLsbD i then (p ^^^ q) ^^^ c else p ^^^ q)
      = (if p.getLsbD i then p ^^^ c else p) ^^^ (if q.getLsbD i then q ^^^ c else q) := by
  rw [BitVec.getLsbD_xor]
  cases p.getLsbD i <;> cases q.getLsbD i
  · rfl
  · exact BitVec.xor_assoc p q c
  · show (p ^^^ q) ^^^ c = (p ^^^ c) ^^^ q
    rw [BitVec.xor_assoc, BitVec.xor_comm q c, ← BitVec.xor_assoc]
  · show p ^^^ q = (p ^^^ c) ^^^ (q ^^^ c)
    rw [BitVec.xor_assoc p c, BitVec.xor_comm q c, ← BitVec.xor_assoc c c, BitVec.xor_self, BitVec.zero_xor]

theorem foldl_reduceStep_xor (f : Nat → BitVec 15) (l : List Nat) :
    ∀ p q : BitVec 15,
      l.foldl (fun p i => if p.getLsbD i then p ^^^ f i else p) (p ^^^ q)
        = l.foldl (fun p i => if p.getLsbD i then p ^^^ f i else p) p
          ^^^ l.foldl (fun p i => if p.getLsbD i then p ^^^ f i else p) q := by
  induction l with
  | nil => intro p q; rfl
  | cons i l ih =>
    intro p q
    simp only [List.foldl_cons]
    rw [reduceStep_xor, ih]

theorem reducePoly_xor (p q : BitVec 15) : reducePoly (p ^^^ q) = reducePoly p ^^^ reducePoly q := by
  unfold reducePoly
  rw [foldl_reduceStep_xor fun i => 0x11D#15 <<< (i - 8), BitVec.setWidth_xor]

/-- The partial product of `a` at bit `i` of `b`. -/
def partialProduct (a b : Sym) (i : Nat) : BitVec 15 := if b.getLsbD i then a.setWidth 15 <<< i else 0

theorem clmul_eq_partialProducts (a b : Sym) :
    clmul a b = (List.range 8).foldl (fun p i => p ^^^ partialProduct a b i) 0 := by
  unfold clmul partialProduct
  congr 1
  funext p i
  split_ifs <;> simp

theorem foldl_xor_xor (f g : Nat → BitVec 15) (l : List Nat) :
    ∀ p q : BitVec 15, l.foldl (fun p i => p ^^^ (f i ^^^ g i)) (p ^^^ q)
      = l.foldl (fun p i => p ^^^ f i) p ^^^ l.foldl (fun p i => p ^^^ g i) q := by
  induction l with
  | nil => intro p q; rfl
  | cons i l ih =>
    intro p q
    simp only [List.foldl_cons]
    rw [← ih]
    congr 1
    rw [BitVec.xor_assoc, BitVec.xor_assoc, ← BitVec.xor_assoc q, BitVec.xor_comm q, BitVec.xor_assoc]

theorem partialProduct_xor_left (a a' b : Sym) (i : Nat) :
    partialProduct (a ^^^ a') b i = partialProduct a b i ^^^ partialProduct a' b i := by
  unfold partialProduct
  split_ifs
  · rw [BitVec.setWidth_xor, BitVec.shiftLeft_xor_distrib]
  · rfl

theorem partialProduct_xor_right (a b b' : Sym) (i : Nat) :
    partialProduct a (b ^^^ b') i = partialProduct a b i ^^^ partialProduct a b' i := by
  unfold partialProduct
  rw [BitVec.getLsbD_xor]
  cases b.getLsbD i <;> cases b'.getLsbD i <;> simp

theorem gmul_gadd_left (a a' b : Sym) : gmul (gadd a a') b = gadd (gmul a b) (gmul a' b) := by
  unfold gmul gadd
  rw [← reducePoly_xor]
  congr 1
  simp only [clmul_eq_partialProducts, partialProduct_xor_left]
  exact foldl_xor_xor _ _ _ 0 0

theorem gmul_gadd_right (a b b' : Sym) : gmul a (gadd b b') = gadd (gmul a b) (gmul a b') := by
  unfold gmul gadd
  rw [← reducePoly_xor]
  congr 1
  simp only [clmul_eq_partialProducts, partialProduct_xor_right]
  exact foldl_xor_xor _ _ _ 0 0

theorem zero_gmul (b : Sym) : gmul 0 b = 0 := by
  have h := gmul_gadd_left 0 0 b
  rwa [gadd_self, gadd_self] at h

theorem gmul_zero (a : Sym) : gmul a 0 = 0 := by
  have h := gmul_gadd_right a 0 0
  rwa [gadd_self, gadd_self] at h

/-! ### From the powers of `x` to every symbol -/

/-- A symbol is the sum of the powers of `x` at its bits. -/
theorem sym_eq_sum_of_bits :
    ∀ a : Sym, a = (List.range 8).foldl (fun acc i => gadd acc (if a.getLsbD i then 1#8 <<< i else 0)) 0 := by
  decide +kernel

/-- A map of symbols that takes sums to sums. -/
def SymAdditive (f : Sym → Sym) : Prop := ∀ a b, f (gadd a b) = gadd (f a) (f b)

theorem additive_gmul_left (c : Sym) : SymAdditive (gmul c) := fun a b => gmul_gadd_right c a b

theorem additive_gmul_right (c : Sym) : SymAdditive (gmul · c) := fun a b => gmul_gadd_left a b c

theorem SymAdditive.comp {f g : Sym → Sym} (hf : SymAdditive f) (hg : SymAdditive g) : SymAdditive (f ∘ g) := fun a b =>
  (congrArg f (hg a b)).trans (hf _ _)

theorem SymAdditive.map_zero {f : Sym → Sym} (hf : SymAdditive f) : f 0 = 0 := by
  have h := hf 0 0
  rwa [gadd_self, gadd_self] at h

/-- Two additive maps that agree on the eight powers of `x` agree. -/
theorem SymAdditive.ext {f g : Sym → Sym} (hf : SymAdditive f) (hg : SymAdditive g) (hbit : ∀ i < 8, f (1#8 <<< i) = g (1#8 <<< i))
    (a : Sym) : f a = g a := by
  rw [sym_eq_sum_of_bits a]
  refine List.foldlRecOn (motive := fun a => f a = g a) _ _ (hf.map_zero.trans hg.map_zero.symm) fun acc hacc i hi => ?_
  rw [hf, hg, hacc]
  split_ifs
  · rw [hbit i (List.mem_range.mp hi)]
  · rw [hf.map_zero, hg.map_zero]

theorem gmul_comm_on_bits : ∀ i < 8, ∀ j < 8, gmul (1#8 <<< i) (1#8 <<< j) = gmul (1#8 <<< j) (1#8 <<< i) := by
  decide +kernel

theorem gmul_comm (a b : Sym) : gmul a b = gmul b a :=
  (additive_gmul_right b).ext (additive_gmul_left b) (fun i hi =>
    (additive_gmul_left _).ext (additive_gmul_right _) (gmul_comm_on_bits i hi) b) a

theorem gmul_assoc_on_bits : ∀ i < 8, ∀ j < 8, ∀ k < 8,
    gmul (gmul (1#8 <<< i) (1#8 <<< j)) (1#8 <<< k) = gmul (1#8 <<< i) (gmul (1#8 <<< j) (1#8 <<< k)) := by
  decide +kernel

/-- Both sides are additive in each of the three symbols. -/
theorem gmul_assoc (a b c : Sym) : gmul (gmul a b) c = gmul a (gmul b c) :=
  ((additive_gmul_right c).comp (additive_gmul_right b)).ext (additive_gmul_right (gmul b c)) (fun i hi =>
    ((additive_gmul_right c).comp (additive_gmul_left _)).ext ((additive_gmul_left _).comp (additive_gmul_right c))
      (fun j hj => (additive_gmul_left _).ext ((additive_gmul_left _).comp (additive_gmul_left _))
        (gmul_assoc_on_bits i hi j hj) c) b) a

theorem gmul_one (a : Sym) : gmul a 1 = a := by revert a; decide +kernel

/-! ### Evaluation (R153) -/

/-- Horner evaluation that starts from `y`; from 0 it is `polyEval`. -/
def hornerFrom (v y : Sym) (f : List Sym) : Sym := f.foldl (fun y c => gadd (gmul y v) c) y

theorem hornerFrom_append (v y : Sym) (f g : List Sym) : hornerFrom v y (f ++ g) = hornerFrom v (hornerFrom v y f) g :=
  List.foldl_append ..

theorem polyEval_append (f g : List Sym) (v : Sym) : polyEval (f ++ g) v = hornerFrom v (polyEval f v) g :=
  hornerFrom_append v 0 f g

theorem polyEval_concat (f : List Sym) (c v : Sym) : polyEval (f ++ [c]) v = gadd (gmul (polyEval f v) v) c :=
  polyEval_append f [c] v

theorem polyEval_cons_zero (f : List Sym) (v : Sym) : polyEval (0 :: f) v = polyEval f v := by
  show hornerFrom v (gadd (gmul 0 v) 0) f = hornerFrom v 0 f
  rw [zero_gmul, gadd_zero]

theorem gadd_gadd_gadd_comm (a b c d : Sym) : gadd (gadd a b) (gadd c d) = gadd (gadd a c) (gadd b d) := by
  rw [gadd_assoc, ← gadd_assoc b, gadd_comm b c, gadd_assoc c, ← gadd_assoc a]

/-- Evaluation takes sums to sums. -/
theorem hornerFrom_zipWith_gadd (v : Sym) (f : List Sym) :
    ∀ (g : List Sym) (y z : Sym), f.length = g.length →
      hornerFrom v (gadd y z) (List.zipWith gadd f g) = gadd (hornerFrom v y f) (hornerFrom v z g) := by
  induction f with
  | nil => intro g y z h; cases List.length_eq_zero_iff.mp h.symm; rfl
  | cons a f ih =>
    intro g y z h
    obtain _ | ⟨b, g⟩ := g
    · cases h
    · rw [List.length_cons, List.length_cons, Nat.succ_inj] at h
      show hornerFrom v (gadd (gmul (gadd y z) v) (gadd a b)) (List.zipWith gadd f g) = _
      rw [gmul_gadd_left, gadd_gadd_gadd_comm]
      exact ih g _ _ h

/-- Evaluation takes multiples to multiples. -/
theorem hornerFrom_polyScale (v k : Sym) (f : List Sym) :
    ∀ y : Sym, hornerFrom v (gmul k y) (polyScale k f) = gmul k (hornerFrom v y f) := by
  induction f with
  | nil => intro y; rfl
  | cons a f ih =>
    intro y
    show hornerFrom v (gadd (gmul (gmul k y) v) (gmul k a)) (polyScale k f) = _
    rw [gmul_assoc, ← gmul_gadd_right]
    exact ih _

theorem polyEval_zipWith_gadd {f g : List Sym} (h : f.length = g.length) (v : Sym) :
    polyEval (List.zipWith gadd f g) v = gadd (polyEval f v) (polyEval g v) := by
  have hsum := hornerFrom_zipWith_gadd v f g 0 0 h
  rwa [gadd_self] at hsum

theorem polyEval_polyScale (k : Sym) (f : List Sym) (v : Sym) : polyEval (polyScale k f) v = gmul k (polyEval f v) := by
  have hmul := hornerFrom_polyScale v k f 0
  rwa [gmul_zero] at hmul

theorem polyEval_replicate_zero (p : Nat) (v : Sym) : polyEval (List.replicate p 0) v = 0 := by
  induction p with
  | zero => rfl
  | succ p ih => rw [List.replicate_succ, polyEval_cons_zero, ih]

/-! ### The generator polynomial (R154) -/

/-- `g_(P+1)(v) = g_P(v) * (v - α^P)`. -/
theorem polyEval_genPoly_succ (p : Nat) (v : Sym) :
    polyEval (genPoly (p + 1)) v = gmul (polyEval (genPoly p) v) (gadd v (alphaPow p)) := by
  rw [genPoly, polyEval_zipWith_gadd (by simp), polyEval_concat, polyEval_cons_zero, polyEval_polyScale, gadd_zero,
    gmul_gadd_right, gmul_comm (alphaPow p)]

/-- The roots of the generator polynomial include `α^0, ..., α^(P-1)`. -/
theorem polyEval_genPoly_root {p i : Nat} (hi : i < p) : polyEval (genPoly p) (alphaPow i) = 0 := by
  induction p with
  | zero => omega
  | succ p ih =>
    rw [polyEval_genPoly_succ]
    obtain rfl | hlt := (Nat.lt_succ_iff.mp hi).eq_or_lt
    · rw [gadd_self, gmul_zero]
    · rw [ih hlt, zero_gmul]

/-- The generator polynomial is monic. -/
theorem genPoly_eq_cons (p : Nat) : genPoly p = 1 :: (genPoly p).tail := by
  induction p with
  | zero => rfl
  | succ p ih => rw [genPoly, ih]; rfl

/-! ### The systematic encoder (R157) -/

/-- One step of the shift register: where data and register evaluate to 0 at a root of the generator polynomial, they still do with
one more data symbol. -/
theorem hornerFrom_lfsrStep {p : Nat} (hp : 0 < p) {v y : Sym} {reg : List Sym} (hroot : polyEval (genPoly p) v = 0)
    (hlen : reg.length = p) (hreg : hornerFrom v y reg = 0) (x : Sym) :
    hornerFrom v (gadd (gmul y v) x) (lfsrStep (genPoly p).tail reg x) = 0 := by
  obtain _ | ⟨r, reg⟩ := reg
  · simp at hlen; omega
  have hsplit : gadd (gmul y v) x = gadd (gadd (gmul y v) r) (gadd x r) := by
    rw [gadd_assoc, gadd_comm x r, ← gadd_assoc r, gadd_self, zero_gadd]
  have hgen : hornerFrom v (gadd x r) (polyScale (gadd x r) (genPoly p).tail) = 0 := by
    have hmul := polyEval_polyScale (gadd x r) (genPoly p) v
    rw [hroot, gmul_zero, genPoly_eq_cons] at hmul
    have hhead : polyEval (polyScale (gadd x r) (1 :: (genPoly p).tail)) v
        = hornerFrom v (gadd (gmul 0 v) (gmul (gadd x r) 1)) (polyScale (gadd x r) (genPoly p).tail) := rfl
    rw [hhead, zero_gmul, zero_gadd, gmul_one] at hmul
    exact hmul
  have hshift : hornerFrom v (gadd (gmul y v) r) (reg ++ [0]) = 0 := by
    rw [hornerFrom_append]
    show gadd (gmul (hornerFrom v y (r :: reg)) v) 0 = 0
    rw [hreg, zero_gmul, gadd_self]
  have hstep : lfsrStep (genPoly p).tail (r :: reg) x
      = List.zipWith gadd (reg ++ [0]) (polyScale (gadd x r) (genPoly p).tail) := rfl
  rw [hstep, hsplit, hornerFrom_zipWith_gadd _ _ _ _ _ (by simpa using hlen), hgen, hshift, gadd_self]

/-- The register after a run of data symbols, and what data and register evaluate to. -/
theorem hornerFrom_foldl_lfsrStep {p : Nat} (hp : 0 < p) {v : Sym} (hroot : polyEval (genPoly p) v = 0) (d : List Sym) :
    ∀ (y : Sym) (reg : List Sym), reg.length = p → hornerFrom v y reg = 0 →
      hornerFrom v (hornerFrom v y d) (d.foldl (lfsrStep (genPoly p).tail) reg) = 0 := by
  induction d with
  | nil => intro y reg _ hreg; exact hreg
  | cons x d ih =>
    intro y reg hlen hreg
    exact ih _ _ ((lfsrStep_length _ _ _ (by simp [hlen]) (by omega)).trans hlen)
      (hornerFrom_lfsrStep hp hroot hlen hreg x)

/-- The data symbols followed by their parity symbols are a codeword. -/
theorem isCodeword_encodeBlock {p : Nat} (hp : 0 < p) (d : List Sym) : isCodeword p (encodeBlock p d) = true := by
  rw [isCodeword_iff]
  intro i hi
  rw [syndrome, encodeBlock, polyEval_append]
  exact hornerFrom_foldl_lfsrStep hp (polyEval_genPoly_root hi) d 0 _ List.length_replicate
    (polyEval_replicate_zero p (alphaPow i))

end Sys2Proof.Proofs

/-! Proofs, part 5: every step keeps the codeword buffer (O58). -/

namespace Sys2Proof.Proofs

open Sys2Proof Sys2Proof.Machine Sys2Proof.Safety

/-! ### What has been written -/

theorem isSome_get?_write {w : Nat} {m : Mem w} {a : Nat} (h : (Mem.get? m a).isSome = true) (i : Nat) (v : BitVec w) :
    (Mem.get? (Mem.write m i v) a).isSome = true := by
  rw [Mem.get?_write]
  split_ifs
  · rfl
  · exact h

theorem isSome_get?_writeList {w : Nat} (vs : List (BitVec w)) :
    ∀ (m : Mem w) (base a : Nat), (Mem.get? m a).isSome = true ∨ base ≤ a ∧ a < base + vs.length →
      (Mem.get? (Mem.writeList m base vs) a).isSome = true := by
  intro m base a h
  by_cases hin : base ≤ a ∧ a < base + vs.length
  · obtain ⟨j, rfl⟩ := Nat.exists_eq_add_of_le hin.1
    rw [Mem.get?_writeList_inside _ _ _ _ (by omega), List.getElem?_eq_getElem (by omega)]
    rfl
  · rw [Mem.get?_writeList_outside _ _ _ _ (by omega)]
    exact h.resolve_right hin

/-- The first `n` symbols a memory holds. -/
def storedSymbols (m : Mem 8) (n : Nat) : List Sym := (List.range n).map fun j => (Mem.get? m j).getD 0

theorem cwSymbols_eq_storedSymbols {s : State} {n : Nat} (h : ∀ i < n, (Mem.get? s.rsu.cw i).isSome = true) :
    cwSymbols s n = storedSymbols s.rsu.cw n := by
  refine List.map_congr_left fun i hi => ?_
  obtain ⟨v, hv⟩ := Option.isSome_iff_exists.mp (h i (List.mem_range.mp hi))
  rw [readCw, readCell_of_get? _ _ _ _ _ hv, hv]
  rfl

/-- A run of writes that begins at `k` follows the first `k` symbols. -/
theorem storedSymbols_writeList (m : Mem 8) (k : Nat) (vs : List Sym) :
    storedSymbols (Mem.writeList m k vs) (k + vs.length) = storedSymbols m k ++ vs := by
  unfold storedSymbols
  rw [List.range_add, List.map_append, List.map_map]
  congr 1
  · refine List.map_congr_left fun i hi => ?_
    rw [Mem.get?_writeList_outside _ _ _ _ (.inl (List.mem_range.mp hi))]
  · refine List.ext_getElem (by simp) fun i hi _ => ?_
    rw [List.length_map, List.length_range] at hi
    simp [Mem.get?_writeList_inside vs m k i hi, hi]

/-! ### The invariant -/

/-- The invariant of the codeword buffer, a property of the Reed-Solomon unit alone. -/
structure BufferGood (r : RsuState) : Prop where
  written : ∀ i, i < min r.cwLen.toNat 255 → (Mem.get? r.cw i).isSome = true ∧ (Mem.get? r.era i).isSome = true
  codeword : r.cwOk = true →
    r.cwLen.toNat = r.lastK.toNat + r.lastP.toNat ∧ r.cwLen.toNat ≤ 255
      ∧ isCodeword r.lastP.toNat (storedSymbols r.cw r.cwLen.toNat) = true

/-- With the valid cells written, the statement's `codewordOk` does not read any unwritten cell. -/
theorem bufferGood_iff (s : State) : blockWritten s ∧ codewordOk s ↔ BufferGood s.rsu := by
  have hread : blockWritten s → s.rsu.cwLen.toNat ≤ 255 →
      cwSymbols s s.rsu.cwLen.toNat = storedSymbols s.rsu.cw s.rsu.cwLen.toNat := fun hw hlen =>
    cwSymbols_eq_storedSymbols fun i hi => (hw i (lt_min hi (hi.trans_le hlen))).1
  constructor
  · rintro ⟨hw, hc⟩
    refine ⟨hw, fun hok => ?_⟩
    obtain ⟨hlast, hlen, hcode⟩ := hc hok
    exact ⟨hlast, hlen, hread hw hlen ▸ hcode⟩
  · rintro ⟨hw, hc⟩
    refine ⟨hw, fun hok => ?_⟩
    obtain ⟨hlast, hlen, hcode⟩ := hc hok
    exact ⟨hlast, hlen, (hread hw hlen).symm ▸ hcode⟩

/-- Where `CW_OK` is false only the written cells matter. -/
theorem BufferGood.of_not_ok {r : RsuState} (hok : r.cwOk = false)
    (hw : ∀ i, i < min r.cwLen.toNat 255 → (Mem.get? r.cw i).isSome = true ∧ (Mem.get? r.era i).isSome = true) :
    BufferGood r :=
  ⟨hw, fun h => absurd h (by simp [hok])⟩

/-- An empty buffer without `CW_OK`. -/
theorem BufferGood.of_empty {r : RsuState} (hok : r.cwOk = false) (hlen : r.cwLen = 0) : BufferGood r :=
  .of_not_ok hok fun i hi => by simp [hlen] at hi

/-- A codeword of the block `RS_LAST` names, stored with its marks. -/
theorem BufferGood.of_codeword {r : RsuState} {p : Nat} {k : BitVec 8} (hfit : k.toNat + p ≤ 255)
    (hlen : r.cwLen.toNat = k.toNat + p) (hk : r.lastK = k) (hp : r.lastP = BitVec.ofNat 8 p)
    (hw : ∀ i < k.toNat + p, (Mem.get? r.cw i).isSome = true ∧ (Mem.get? r.era i).isSome = true)
    (hcode : isCodeword p (storedSymbols r.cw (k.toNat + p)) = true) : BufferGood r := by
  have hpn : r.lastP.toNat = p := by rw [hp, BitVec.toNat_ofNat, Nat.mod_eq_of_lt (by omega)]
  refine ⟨fun i hi => hw i (by omega), fun _ => ⟨by rw [hlen, hk, hpn], by omega, ?_⟩⟩
  rw [hpn, hlen]
  exact hcode

theorem BufferGood.writeReg {s : State} (h : BufferGood s.rsu) (r : Reg) (v : BitVec 32) :
    BufferGood (writeReg s r v).rsu := by
  cases r <;> exact ⟨h.written, h.codeword⟩

theorem BufferGood.encoded {s : State} {k : BitVec 8} (h : BufferGood s.rsu)
    (hfit : k.toNat + parityOf s k ≤ Config.nCwMax) (hlen : s.rsu.cwLen.toNat = k.toNat) :
    BufferGood { s.rsu with
      cw := Mem.writeList s.rsu.cw k.toNat (paritySymbols (parityOf s k) (cwSymbols s k.toNat))
      era := Mem.writeList s.rsu.era 0 (List.replicate (k.toNat + parityOf s k) 0)
      cwLen := BitVec.ofNat 9 (k.toNat + parityOf s k)
      cwOk := true
      lastP := BitVec.ofNat 8 (parityOf s k)
      lastK := k } := by
  have hfit' : k.toNat + parityOf s k ≤ 255 := hfit
  have hp : 0 < parityOf s k := parityCount_pos _ _
  have hparity := paritySymbols_length (parityOf s k) (cwSymbols s k.toNat) hp
  have hdata : ∀ i < k.toNat, (Mem.get? s.rsu.cw i).isSome = true := fun i hi => (h.written i (by omega)).1
  refine .of_codeword hfit' ?_ rfl rfl (fun i hi => ⟨?_, ?_⟩) ?_
  · show (BitVec.ofNat 9 (k.toNat + parityOf s k)).toNat = _
    rw [BitVec.toNat_ofNat, Nat.mod_eq_of_lt (by omega)]
  · refine isSome_get?_writeList _ _ _ _ ?_
    rw [hparity]
    exact (lt_or_ge i k.toNat).imp (hdata i) fun hk => ⟨hk, hi⟩
  · exact isSome_get?_writeList _ _ _ _ (.inr ⟨by omega, by simpa using hi⟩)
  · have hstored := storedSymbols_writeList s.rsu.cw k.toNat (paritySymbols (parityOf s k) (cwSymbols s k.toNat))
    rw [hparity, ← cwSymbols_eq_storedSymbols hdata] at hstored
    show isCodeword _ (storedSymbols (Mem.writeList _ _ _) _) = true
    rw [hstored]
    exact isCodeword_encodeBlock hp _

theorem BufferGood.decoded {s : State} {k : BitVec 8} {c : List Sym} {e errCnt eraCnt : Nat}
    (hcount : wrongCount s k = false)
    (hdec : decodeBlock (parityOf s k) (cwSymbols s (k.toNat + parityOf s k)) (eraMarks s (k.toNat + parityOf s k))
      = some (c, e)) :
    BufferGood { s.rsu with
      cw := Mem.writeList s.rsu.cw 0 c
      era := Mem.writeList s.rsu.era 0 ((List.replicate (k.toNat + parityOf s k) false).map BitVec.ofBool)
      lastP := BitVec.ofNat 8 (parityOf s k)
      lastK := k
      cwOk := true
      errCnt := BitVec.ofNat 8 errCnt
      eraCnt := BitVec.ofNat 8 eraCnt } := by
  obtain ⟨hfit, hlen⟩ := wrongCount_eq_false hcount
  obtain ⟨hclen, hcode, -⟩ := decodeBlock_sound (by rw [cwSymbols_length, eraMarks_length]) hdec
  rw [cwSymbols_length] at hclen
  refine .of_codeword hfit hlen rfl rfl (fun i hi => ⟨?_, ?_⟩) ?_
  · exact isSome_get?_writeList _ _ _ _ (.inr ⟨by omega, by omega⟩)
  · exact isSome_get?_writeList _ _ _ _ (.inr ⟨by omega, by simpa using hi⟩)
  · have hstored := storedSymbols_writeList s.rsu.cw 0 c
    rw [hclen, Nat.zero_add] at hstored
    show isCodeword _ (storedSymbols (Mem.writeList _ _ _) _) = true
    rw [hstored]
    exact hcode

theorem BufferGood.of_change {s : State} {r : RsuState} (h : BufferGood s.rsu) (hc : RsuChange s r) : BufferGood r := by
  cases hc with
  | same => exact h
  | configured r lo hi v => exact h.writeReg r v
  | reset => exact .of_empty rfl rfl
  | cleared => exact .of_empty rfl rfl
  | overflowed hlen => exact .of_not_ok rfl fun i hi => h.written i (by simp at hi; omega)
  | pushed sym era hlen =>
    refine .of_not_ok rfl fun i hi => ?_
    have hi' : i < s.rsu.cwLen.toNat + 1 := hi.trans_le ((min_le_left _ _).trans (toNat_ofNat_le le_rfl))
    obtain rfl | hne := eq_or_ne i s.rsu.cwLen.toNat
    · simp
    · obtain ⟨hcw, hera⟩ := h.written i (by omega)
      exact ⟨isSome_get?_write hcw _ _, isSome_get?_write hera _ _⟩
  | discarded => exact .of_empty rfl rfl
  | encoded k hfit hlen => exact h.encoded hfit hlen
  | uncorrectable => exact .of_empty rfl rfl
  | decoded k c e hcount hdec => exact .decoded hcount hdec
  | split k =>
    have hkept := splitBlock_keeps (n := k.toNat + parityOf s k) (d := s.rsu.ilvD.toNat)
      (P := fun r => r.cwLen = s.rsu.cwLen ∧ ∀ i, i < min s.rsu.cwLen.toNat 255 →
        (Mem.get? r.cw i).isSome = true ∧ (Mem.get? r.era i).isSome = true)
      (fun r j _ ⟨hlen, hr⟩ => ⟨hlen, fun i hi => (hr i hi).imp (isSome_get?_write · _ _) (isSome_get?_write · _ _)⟩)
      ⟨rfl, h.written⟩
    obtain ⟨hlen, hw⟩ := hkept
    exact .of_not_ok rfl fun i hi => hw i (hlen ▸ hi)
  | merged k lost =>
    refine .of_not_ok rfl fun i hi => ?_
    obtain ⟨hcw, hera⟩ := h.written i hi
    exact ⟨isSome_get?_writeList _ _ _ _ (.inl hcw), isSome_get?_writeList _ _ _ _ (.inl hera)⟩

/-- Settles O58: `CW_OK` rises only on the encoder's block, a codeword by `isCodeword_encodeBlock`, and on the decoder's, which
checks its own answer; writes never take a written cell away. -/
theorem stepKeepsTheCodewordBuffer : Obligations.StepKeepsTheCodewordBuffer := by
  unfold Obligations.StepKeepsTheCodewordBuffer
  intro s t hs hstep
  rw [bufferGood_iff] at hs ⊢
  exact step_keeps (P := fun s => BufferGood s.rsu) (fun _ _ h => h) (fun _ => .of_empty rfl rfl) (fun _ h => h)
    (fun _ _ _ h he => h.of_change (exec_changes he).1) hs hstep

end Sys2Proof.Proofs

/-! Proofs, part 6: what sets and what clears each event bit (O14). -/

namespace Sys2Proof.Proofs

open Sys2Proof Sys2Proof.Machine Sys2Proof.Safety

/-! ### The response word and the event bits -/

/-- `RA.DROPPED` is bit 34 of the response word (30_encoding.md R101, 44_channel_sync.md R280). -/
@[simp] theorem responseWord_dropped (st : OutcomeCode) (ra : BitVec 24) (rb : BitVec 32) :
    (responseWord st ra rb)[34] = ra[2] := by
  have h : responseWord st ra rb = commandWord (codeOf st) ra rb := rfl
  rw [h, ← BitVec.getLsbD_eq_getElem, commandWord_bit]
  simp

@[simp] theorem observeFlags_dropped (dropped dup matched : Bool) : (observeFlags dropped dup matched)[2] = dropped := by
  revert dropped dup matched
  decide

/-- The bits of `EVT` after room has been made: `HIST_OVF_V` rises where the visual history is full. -/
theorem makeRoomV_evt (s : State) :
    (makeRoomV s).ctl.evt[0] = s.ctl.evt[0] ∧ (makeRoomV s).ctl.evt[1] = (s.ctl.evt[1] || isFull s.csu.vh)
      ∧ (makeRoomV s).ctl.evt[2] = s.ctl.evt[2] := by
  obtain ⟨hf, h⟩ | ⟨hf, h⟩ := makeRoomV_cases s <;> simp [h, hf]

/-- The bits of `EVT` after room has been made: `HIST_OVF_A` rises where the audio history is full. -/
theorem makeRoomA_evt (s : State) :
    (makeRoomA s).ctl.evt[0] = s.ctl.evt[0] ∧ (makeRoomA s).ctl.evt[1] = s.ctl.evt[1]
      ∧ (makeRoomA s).ctl.evt[2] = (s.ctl.evt[2] || isFull s.csu.ah) := by
  obtain ⟨hf, h⟩ | ⟨hf, h⟩ := makeRoomA_cases s <;> simp [h, hf]

/-! ### The table of R319 -/

/-- R319 for one command from `s` to `t`. -/
def EventsAsTabulated (i : Instr) (s t : State) : Prop :=
  (resyncReq t = true ↔ (resyncReq s = true ∧ i ≠ .csResync ∧ i ≠ .softReset)
    ∨ ∃ id ts, i = .csObserveV id ts ∧ t.ctl.status = 0x07)
  ∧ (histOvfV t = true ↔ (histOvfV s = true ∧ i ≠ .softReset ∧ ∀ m, i = .evtClr m → m.getLsbD 0 = false)
    ∨ ∃ id ts, i = .csObserveV id ts ∧ t.rsp.map (·.getLsbD 34) = some true)
  ∧ (histOvfA t = true ↔ (histOvfA s = true ∧ i ≠ .softReset ∧ ∀ m, i = .evtClr m → m.getLsbD 1 = false)
    ∨ ∃ id ts, i = .csObserveA id ts ∧ t.rsp.map (·.getLsbD 34) = some true)

/-! ### The commands that leave every event alone -/

/-- Only these commands touch `EVT` (60_exceptions.md R319). -/
def touchesEvents : Instr → Bool
  | .softReset | .evtClr _ | .csResync | .csObserveV _ _ | .csObserveA _ _ => true
  | _ => false

theorem exec_evt_of_not_touchesEvents {i : Instr} {s t : State} (hi : touchesEvents i = false) (h : exec i s = .next t) :
    t.ctl.evt = s.ctl.evt := by
  cases hu : unitOf i with
  | ctl =>
    obtain ⟨u, hc, he⟩ := exec_ctl_cases hu h
    rw [he.evt]
    cases hc with
    | nop | readReg | refused => rfl
    | configured _ r _ _ v =>
      obtain ⟨_, _, _, _, hevt⟩ := writeReg_frame s r v
      exact hevt
    | reset => cases hi
    | cleared => cases hi
  | rsu => obtain ⟨r, _, he⟩ := exec_rsu_cases hu h; exact he.evt
  | fmu => obtain ⟨f, _, he⟩ := exec_fmu_cases hu h; exact he.evt
  | apc => obtain ⟨a, _, he⟩ := exec_apc_cases hu h; exact he.evt
  | csu =>
    cases exec_csu_cases hu h with
    | read _ _ _ he => exact he.evt
    | resynced => cases hi
    | visual => cases hi
    | audio => cases hi

theorem eventsAsTabulated_of_not_touchesEvents {i : Instr} {s t : State} (hi : touchesEvents i = false)
    (hevt : t.ctl.evt = s.ctl.evt) : EventsAsTabulated i s t := by
  have hreset : i ≠ .softReset := by rintro rfl; cases hi
  have hresync : i ≠ .csResync := by rintro rfl; cases hi
  have hclear : ∀ m, i ≠ .evtClr m := by rintro m rfl; cases hi
  have hvisual : ∀ id ts, i ≠ .csObserveV id ts := by rintro id ts rfl; cases hi
  have haudio : ∀ id ts, i ≠ .csObserveA id ts := by rintro id ts rfl; cases hi
  simp [EventsAsTabulated, resyncReq, histOvfV, histOvfA, hevt, hreset, hresync, hclear, hvisual, haudio]

/-! ### The commands that clear events -/

theorem execSoftReset_events {s t : State} (h : exec .softReset s = .next t) : EventsAsTabulated .softReset s t := by
  cases h
  simp [EventsAsTabulated, resyncReq, histOvfV, histOvfA, CtlState.reset]

theorem execCsResync_events {s t : State} (h : exec .csResync s = .next t) : EventsAsTabulated .csResync s t := by
  cases h
  simp [EventsAsTabulated, resyncReq, histOvfV, histOvfA]

theorem execEvtClr_events {mask : BitVec 2} {s t : State} (h : exec (.evtClr mask) s = .next t) :
    EventsAsTabulated (.evtClr mask) s t := by
  cases h
  have hbits : (mask ++ 0#1 : BitVec 3)[0] = false ∧ (mask ++ 0#1 : BitVec 3)[1] = mask[0]
      ∧ (mask ++ 0#1 : BitVec 3)[2] = mask[1] := by revert mask; decide
  simp [EventsAsTabulated, resyncReq, histOvfV, histOvfA, hbits]

/-! ### The observation commands -/

theorem eventsAsTabulated_csObserveV (id : BitVec 24) (ts : BitVec 32) (s t : State) :
    EventsAsTabulated (.csObserveV id ts) s t ↔
      (t.ctl.evt[0] = true ↔ s.ctl.evt[0] = true ∨ t.ctl.status = 0x07)
      ∧ (t.ctl.evt[1] = true ↔ s.ctl.evt[1] = true ∨ t.rsp.map (·[34]) = some true)
      ∧ (t.ctl.evt[2] = true ↔ s.ctl.evt[2] = true) := by
  simp [EventsAsTabulated, resyncReq, histOvfV, histOvfA]

theorem eventsAsTabulated_csObserveA (id : BitVec 24) (ts : BitVec 32) (s t : State) :
    EventsAsTabulated (.csObserveA id ts) s t ↔
      (t.ctl.evt[0] = true ↔ s.ctl.evt[0] = true)
      ∧ (t.ctl.evt[1] = true ↔ s.ctl.evt[1] = true)
      ∧ (t.ctl.evt[2] = true ↔ s.ctl.evt[2] = true ∨ t.rsp.map (·[34]) = some true) := by
  simp [EventsAsTabulated, resyncReq, histOvfV, histOvfA]

theorem VisualOutcome.events {id : BitVec 24} {ts : BitVec 32} {s t : State} (h : VisualOutcome id ts s t) :
    EventsAsTabulated (.csObserveV id ts) s t := by
  obtain ⟨hreq, hv, ha⟩ := makeRoomV_evt (evict ts s)
  rw [eventsAsTabulated_csObserveV]
  cases h with
  | pending hpending =>
    have hset : s.ctl.evt[0] = true := hpending
    simp [hset]
  | duplicate => simp [codeOf]
  | matched => simp [codeOf, readyV, enterMatchedV, hreq, hv, ha]
  | lost => simp [codeOf, readyV, enterLoneV, hv, ha]
  | lone => simp [codeOf, readyV, enterLoneV, hreq, hv, ha]

theorem AudioOutcome.events {id : BitVec 24} {ts : BitVec 32} {s t : State} (h : AudioOutcome id ts s t) :
    EventsAsTabulated (.csObserveA id ts) s t := by
  obtain ⟨hreq, hv, ha⟩ := makeRoomA_evt (evict ts s)
  rw [eventsAsTabulated_csObserveA]
  cases h with
  | pending => simp
  | duplicate => simp
  | matched => simp [readyA, enterMatchedA, hreq, hv, ha]
  | lone => simp [readyA, enterLoneA, hreq, hv, ha]

/-- Settles O14: only five commands touch `EVT`, and each of them as R319 says. -/
theorem eventsChangeOnlyAsTabulated : Obligations.EventsChangeOnlyAsTabulated := by
  unfold Obligations.EventsChangeOnlyAsTabulated
  intro i s t h
  change EventsAsTabulated i s t
  cases htouch : touchesEvents i with
  | false => exact eventsAsTabulated_of_not_touchesEvents htouch (exec_evt_of_not_touchesEvents htouch h)
  | true =>
    match i, htouch, h with
    | .softReset, _, h => exact execSoftReset_events h
    | .evtClr _, _, h => exact execEvtClr_events h
    | .csResync, _, h => exact execCsResync_events h
    | .csObserveV _ _, _, h => exact (execCsObserveV_outcome h).events
    | .csObserveA _ _, _, h => exact (execCsObserveA_outcome h).events

end Sys2Proof.Proofs

/-! Proofs, part 7: the register map as `CFG_RD` shows it (O18), and the state after reset (O8, O59). -/

namespace Sys2Proof.Proofs

open Sys2Proof Sys2Proof.Machine Sys2Proof.Safety

/-! ### The map of 10_state.md R22 -/

/-- The index of each register. -/
def regMap : List (Nat × Reg) :=
  [(0x00, .id), (0x01, .status), (0x02, .evt), (0x03, .evtEn), (0x10, .rsRpct), (0x11, .ilvD), (0x12, .rsStat),
    (0x13, .rsLast), (0x20, .gridN), (0x21, .palBits), (0x22, .findTol), (0x23, .hdrFrameId), (0x24, .hdrTotal),
    (0x25, .hdrPaylen), (0x26, .hdrCksum), (0x27, .frParlen), (0x28, .fbLen), (0x29, .frScore), (0x2A, .frRcnt),
    (0x2B, .parseState), (0x30, .abLen), (0x31, .ptLen), (0x32, .auThreshLo), (0x33, .auThreshHi), (0x34, .auPeakLo),
    (0x35, .auPeakHi), (0x36, .auLag), (0x40, .histWin), (0x41, .resyncN), (0x42, .csOffsetLo), (0x43, .csOffsetHi),
    (0x44, .csRate), (0x45, .csNoMatch), (0x46, .csFill), (0x47, .csMprev), (0x48, .csTprev)]

theorem regOfIndex_ofNat_of_mem_regMap :
    ∀ x ∈ regMap, regOfIndex (BitVec.ofNat 8 x.1) = some x.2 := by
  decide

theorem regOfIndex_of_mem_regMap {index : BitVec 8} {r : Reg} (h : (index.toNat, r) ∈ regMap) :
    regOfIndex index = some r := by
  have hreg := regOfIndex_ofNat_of_mem_regMap _ h
  rwa [BitVec.ofNat_toNat, BitVec.setWidth_eq] at hreg

theorem regOfIndex_eq_none :
    ∀ index : BitVec 8, (∀ x ∈ regMap, x.1 ≠ index.toNat) → regOfIndex index = none := by
  decide +kernel

/-! ### The registers made of fields -/

theorem toNat_append_eq {m n : Nat} (a : BitVec m) (b : BitVec n) : (a ++ b).toNat = a.toNat * 2 ^ n + b.toNat := by
  rw [BitVec.toNat_append, ← Nat.shiftLeft_add_eq_or_of_lt b.isLt, Nat.shiftLeft_eq]

/-- The fields of `RS_STAT` at their bit places (10_state.md R30). -/
theorem rsStatWord_toNat (r : RsuState) :
    (rsStatWord r).toNat = r.cwLen.toNat + 2 ^ 9 * r.cwOk.toNat + 2 ^ 10 * r.ilv.toNat + 2 ^ 16 * r.errCnt.toNat
      + 2 ^ 24 * r.eraCnt.toNat := by
  simp only [rsStatWord, toNat_append_eq, BitVec.toNat_ofBool, BitVec.toNat_ofNat]
  omega

/-- The fields of `CS_FILL` at their bit places (10_state.md R51). -/
theorem csFillWord_toNat (c : CsuState) (hv : c.vh.length ≤ 64) (ha : c.ah.length ≤ 64) :
    (csFillWord c).toNat = c.vh.length + 2 ^ 8 * c.ah.length + 2 ^ 16 * c.havePrev.toNat := by
  simp only [csFillWord, toNat_append_eq, BitVec.toNat_ofBool, BitVec.toNat_ofNat]
  omega

/-- `RS_LAST` (10_state.md R31). -/
theorem rsLast_toNat (r : RsuState) : (r.lastP ++ r.lastK).toNat = r.lastK.toNat + 2 ^ 8 * r.lastP.toNat := by
  rw [toNat_append_eq]
  omega

/-- The lower part of `CS_OFFSET` (10_state.md R47). -/
theorem offsetLo_toNat (v : BitVec 48) : (v.extractLsb' 0 32).toNat = v.toNat % 2 ^ 32 := by
  rw [BitVec.extractLsb'_toNat, Nat.shiftRight_zero]

/-- The upper part of `CS_OFFSET` (10_state.md R47). -/
theorem offsetHi_toNat (v : BitVec 48) : (v.extractLsb' 32 16).toNat = v.toNat / 2 ^ 32 := by
  rw [BitVec.extractLsb'_toNat, Nat.shiftRight_eq_div_pow]
  omega

/-- A register widened to the 32 bits of the response reads as its own value (R22). -/
theorem widened_toNat {n : Nat} (v : BitVec n) (hn : n ≤ 32) : (v.setWidth 32).toNat = v.toNat :=
  BitVec.toNat_setWidth_of_le hn

/-- The table of R22 lists what `CFG_RD` reads. -/
theorem registerTable_eq_map_readReg (s : State) (hv : s.csu.vh.length ≤ 64) (ha : s.csu.ah.length ≤ 64) :
    registerTable s = regMap.map fun x => (x.1, (readReg s x.2).toNat) := by
  simp only [registerTable, regMap, List.map_cons, List.map_nil, readReg, rsStatWord_toNat, csFillWord_toNat _ hv ha]
  simp only [widened_toNat, Nat.reduceLeDiff, Nat.reduceAdd, rsLast_toNat, offsetLo_toNat, offsetHi_toNat]
  cases s.fmu.parseState <;> rfl

theorem mem_registerTable_iff {s : State} (hv : s.csu.vh.length ≤ 64) (ha : s.csu.ah.length ≤ 64) (x : Nat × Nat) :
    x ∈ registerTable s ↔ ∃ r, (x.1, r) ∈ regMap ∧ x.2 = (readReg s r).toNat := by
  rw [registerTable_eq_map_readReg s hv ha, List.mem_map]
  constructor
  · rintro ⟨⟨index, r⟩, hmem, rfl⟩
    exact ⟨r, hmem, rfl⟩
  · rintro ⟨r, hmem, hval⟩
    exact ⟨(x.1, r), hmem, Prod.ext rfl hval.symm⟩

/-! ### `CFG_RD` -/

theorem exec_cfgRd_of_some {reg : BitVec 8} {r : Reg} (s : State) (h : regOfIndex reg = some r) :
    exec (.cfgRd reg) s = .next (settled 0x00 0 (readReg s r) s) := by
  simp only [exec, execCfgRd, h]
  rfl

theorem exec_cfgRd_of_none {reg : BitVec 8} (s : State) (h : regOfIndex reg = none) :
    exec (.cfgRd reg) s = .next (settled 0x11 0 0 s) := by
  simp only [exec, execCfgRd, h]
  rfl

theorem hasWord_cfgRd : ∀ reg : BitVec 8, decode (commandWord 0x02 (reg.setWidth 24) 0) = .ok (.cfgRd reg) := by
  decide +kernel

/-- Settles O18: the table of R22 is the register map with the value `CFG_RD` answers for each register. -/
theorem configReadGivesTheTabulatedValue : Obligations.ConfigReadGivesTheTabulatedValue := by
  unfold Obligations.ConfigReadGivesTheTabulatedValue
  intro reg s hv ha
  refine ⟨hasWord_cfgRd reg, fun hnone => exec_cfgRd_of_none s (regOfIndex_eq_none reg fun x hx => ?_), fun v hmem => ?_⟩
  · exact hnone (x.1, (readReg s x.2).toNat) ((mem_registerTable_iff hv ha _).mpr ⟨x.2, hx, rfl⟩)
  · obtain ⟨r, hr, rfl⟩ := (mem_registerTable_iff hv ha (reg.toNat, v)).mp hmem
    rw [BitVec.ofNat_toNat, BitVec.setWidth_eq]
    exact ⟨(readReg s r).isLt, exec_cfgRd_of_some s (regOfIndex_of_mem_regMap hr)⟩

/-! ### The state after reset -/

theorem configRead_of_some {reg : BitVec 8} {r : Reg} (s : State) (h : regOfIndex reg = some r) :
    configRead reg s = some (readReg s r) := by
  rw [configRead, exec_cfgRd_of_some s h]
  show some (BitVec.extractLsb' 0 32 (commandWord 0x00 0 (readReg s r))) = _
  rw [commandWord_b]

/-- The "reset" column of R22 is the table of the state after reset. -/
theorem resetTable_eq_registerTable : resetTable = registerTable State.reset := by decide

/-- Settles O8: the register values are the table's, the rest is read off the state after reset. -/
theorem resetLeavesTheseValues : Obligations.ResetLeavesTheseValues := by
  unfold Obligations.ResetLeavesTheseValues
  refine ⟨fun x hx => ?_, rfl, rfl, rfl, rfl, rfl, rfl, rfl, rfl, rfl, by decide, rfl,
    fun _ => ⟨rfl, rfl, rfl, rfl, rfl, rfl, rfl⟩⟩
  rw [resetTable_eq_registerTable] at hx
  obtain ⟨r, hr, hval⟩ := (mem_registerTable_iff (by decide) (by decide) x).mp hx
  rw [configRead_of_some _ (regOfIndex_ofNat_of_mem_regMap _ hr), hval, BitVec.ofNat_toNat, BitVec.setWidth_eq]

/-- Settles O59, from each invariant's own lemma about the state after reset. -/
theorem invariantsHoldAfterReset : Obligations.InvariantsHoldAfterReset := by
  unfold Obligations.InvariantsHoldAfterReset
  obtain ⟨hmem, hreg, hcount⟩ := (inRange_iff State.reset).mpr ⟨.reset, .reset, .reset⟩
  exact ⟨hmem, hreg, hcount, (historiesOk_iff State.reset).mpr .nil,
    (bufferGood_iff State.reset).mpr (.of_empty rfl rfl)⟩

end Sys2Proof.Proofs

/-! Proofs, part 8: the correlation fits its register (O55). -/

namespace Sys2Proof.Proofs

open Sys2Proof Sys2Proof.Machine Sys2Proof.Safety

/-- A product of two samples (20_memory.md R75). -/
theorem abs_sample_mul_le (a b : BitVec 16) : |sampleOf a * sampleOf b| ≤ 2 ^ 30 := by
  have hsample : ∀ v : BitVec 16, |sampleOf v| ≤ 2 ^ 15 := fun v =>
    abs_le.mpr ⟨BitVec.le_toInt v, (BitVec.toInt_lt (x := v)).le⟩
  calc |sampleOf a * sampleOf b| = |sampleOf a| * |sampleOf b| := abs_mul _ _
    _ ≤ 2 ^ 15 * 2 ^ 15 := mul_le_mul (hsample a) (hsample b) (abs_nonneg _) (by norm_num)
    _ = 2 ^ 30 := by norm_num

/-- A sum is at most its number of terms times the bound of each. -/
theorem abs_sum_le (f : Nat → Int) (B : Int) (hf : ∀ i, |f i| ≤ B) (t : Nat) :
    |((List.range t).map f).sum| ≤ t * B := by
  induction t with
  | zero => simp
  | succ t ih =>
    rw [List.range_succ, List.map_append, List.sum_append, List.map_singleton, List.sum_singleton, Nat.cast_succ,
      add_mul, one_mul]
    exact (abs_add_le _ _).trans (add_le_add ih (hf t))

theorem abs_correlation_le {t : Nat} (ht : t ≤ 1024) (s : State) (l : Nat) : |correlation s t l| ≤ 2 ^ 40 :=
  calc |correlation s t l| ≤ t * 2 ^ 30 := abs_sum_le _ _ (fun _ => abs_sample_mul_le _ _) t
    _ ≤ 1024 * 2 ^ 30 := by gcongr; exact_mod_cast ht
    _ = 2 ^ 40 := by norm_num

/-- A number of at most 2^40 in magnitude is its own 48-bit pattern. -/
theorem wrap48_toInt {v : Int} (hv : |v| ≤ 2 ^ 40) : (wrap 48 v).toInt = v := by
  obtain ⟨hlo, hhi⟩ := abs_le.mp hv
  rw [wrap, BitVec.toInt_ofInt]
  exact Int.bmod_eq_of_le (by norm_num at *; omega) (by norm_num at *; omega)

/-- The peak is the value at one of the lags. -/
theorem peakOf_fst (c : Nat → Int) (count : Nat) : (peakOf c count).1 = c (peakOf c count).2 := by
  induction count with
  | zero => rfl
  | succ count ih =>
    simp only [peakOf]
    split_ifs
    · rfl
    · exact ih

theorem threshold_reset {s : State} (hhi : s.apc.auThreshHi = 0x7FFF) (hlo : s.apc.auThreshLo = 0xFFFFFFFF) :
    threshold s = 2 ^ 47 - 1 := by
  rw [threshold, hhi, hlo]
  decide

/-- `AU_CORR` answers OK only where the peak reaches the threshold (43_audio_correlator.md R257). -/
theorem threshold_le_of_auCorr_ok {s t : State} (h : exec .auCorr s = .next t) (hok : t.ctl.status = 0) :
    ∃ l, threshold s ≤ correlation s s.apc.ptLen.toNat l := by
  simp only [exec, execAuCorr, Host.Outcome.next.injEq] at h
  subst h
  split_ifs at hok with ht ha hpeak
  · exact absurd hok (by simp [codeOf])
  · exact absurd hok (by simp [codeOf])
  · exact absurd hok (by simp [codeOf])
  · exact ⟨_, (not_lt.mp hpeak).trans_eq (peakOf_fst _ _)⟩

/-- Settles O55: the bounds, and that no correlation reaches the reset threshold. -/
theorem correlationFitsItsRegister : Obligations.CorrelationFitsItsRegister := by
  unfold Obligations.CorrelationFitsItsRegister
  refine ⟨abs_sample_mul_le, fun s t l ht => ⟨abs_correlation_le ht s l, wrap48_toInt (abs_correlation_le ht s l)⟩, ?_⟩
  intro s t hlen hhi hlo h hok
  obtain ⟨l, hl⟩ := threshold_le_of_auCorr_ok h hok
  have hbound := (le_abs_self _).trans (abs_correlation_le hlen s l)
  rw [threshold_reset hhi hlo] at hl
  norm_num at hl hbound
  omega

end Sys2Proof.Proofs

/-! Proofs, part 9: a read command changes no state but `STATUS` (O12). -/

namespace Sys2Proof.Proofs

open Sys2Proof Sys2Proof.Machine Sys2Proof.Safety

/-- A read command does nothing before its end (20_memory.md R88). -/
theorem exec_read_ends {i : Instr} {s t : State} (hi : isRead i = true) (h : exec i s = .next t) : Ends s t := by
  cases i <;> cases hi
  case cfgRd => exact execCfgRd_ends h
  case csDrift => exact execCsDrift_ends h
  case csHistRd => exact execCsHistRd_ends h
  case csAlign => cases h; exact ends_respond _ _ _ _
  case cwRd | gridRd | tmplRd | fbRd | abRd | ptRd => cases h; exact ends_checked _ _ _ _ _ _ _ _

/-- Settles O12: a read command ends without a change before its end, and the end is what `settled` says. -/
theorem readsChangeOnlyStatus : Obligations.ReadsChangeOnlyStatus := by
  unfold Obligations.ReadsChangeOnlyStatus
  intro i s t hi h
  obtain ⟨st, ra, rb, rfl⟩ := exec_read_ends hi h
  exact ⟨codeOf st, ra, rb, respond_eq_settled st ra rb s⟩

end Sys2Proof.Proofs

/-! Proofs, part 10: each command word gets one response, in order, whatever words follow (O10). -/

namespace Sys2Proof.Proofs

open Sys2Proof Sys2Proof.Machine Sys2Proof.Safety

/-! ### The waiting words -/

/-- `s` with these inputs waiting at the command port (30_encoding.md R103). -/
def withInputs (q : List HostInput) (s : State) : State := { s with inputs := q }

@[simp] theorem withInputs_rsp (q : List HostInput) (s : State) : (withInputs q s).rsp = s.rsp := rfl
@[simp] theorem withInputs_csu (q : List HostInput) (s : State) : (withInputs q s).csu = s.csu := rfl

/-! ### A command's computations neither see nor change the waiting words -/

theorem writeReg_withInputs (q : List HostInput) (s : State) (r : Reg) (v : BitVec 32) :
    writeReg (withInputs q s) r v = withInputs q (writeReg s r v) := by
  cases r <;> rfl

theorem parityOf_withInputs (q : List HostInput) (s : State) (k : BitVec 8) :
    parityOf (withInputs q s) k = parityOf s k := rfl

theorem cwSymbols_withInputs (q : List HostInput) (s : State) (n : Nat) :
    cwSymbols (withInputs q s) n = cwSymbols s n := rfl

theorem eraMarks_withInputs (q : List HostInput) (s : State) (n : Nat) :
    eraMarks (withInputs q s) n = eraMarks s n := rfl

theorem stageFinder_withInputs (q : List HostInput) (g : Geom) (s : State) :
    stageFinder g (withInputs q s) = withInputs q (stageFinder g s) := by
  simp only [stageFinder, stageHeader, stageChecksum, stagePayload, apply_ite (withInputs q)]
  rfl

theorem evict_withInputs (q : List HostInput) (ts : BitVec 32) (s : State) :
    evict ts (withInputs q s) = withInputs q (evict ts s) := rfl

theorem makeRoomV_withInputs (q : List HostInput) (s : State) :
    makeRoomV (withInputs q s) = withInputs q (makeRoomV s) := by
  simp only [makeRoomV, apply_ite (withInputs q)]
  rfl

theorem makeRoomA_withInputs (q : List HostInput) (s : State) :
    makeRoomA (withInputs q s) = withInputs q (makeRoomA s) := by
  simp only [makeRoomA, apply_ite (withInputs q)]
  rfl

/-! ### Command by command -/

section
variable (q : List HostInput) {s t : State}

theorem execCfgWr_withInputs {reg : BitVec 8} {val : BitVec 32} (h : execCfgWr reg val s = .next t) :
    execCfgWr reg val (withInputs q s) = .next (withInputs q t) := by
  cases h
  simp only [execCfgWr, writeReg_withInputs]
  cases regOfIndex reg with
  | none => rfl
  | some r =>
    cases hr : legalRange r with
    | none => simp only [hr]; rfl
    | some range => simp only [hr, apply_ite (withInputs q)]; rfl

theorem execCfgRd_withInputs {reg : BitVec 8} (h : execCfgRd reg s = .next t) :
    execCfgRd reg (withInputs q s) = .next (withInputs q t) := by
  cases h
  simp only [execCfgRd]
  cases regOfIndex reg <;> rfl

theorem execRsDec_withInputs {k : BitVec 8} (h : execRsDec k s = .next t) :
    execRsDec k (withInputs q s) = .next (withInputs q t) := by
  cases h
  simp only [execRsDec, parityOf_withInputs, cwSymbols_withInputs, eraMarks_withInputs, apply_ite (withInputs q)]
  cases decodeBlock _ _ _ <;> rfl

theorem execCsObserveV_withInputs {id : BitVec 24} {ts : BitVec 32} (h : execCsObserveV id ts s = .next t) :
    execCsObserveV id ts (withInputs q s) = .next (withInputs q t) := by
  cases h
  simp only [execCsObserveV, evict_withInputs, makeRoomV_withInputs, withInputs_csu, apply_ite (withInputs q)]
  cases (makeRoomV (evict ts s)).csu.ah.find? (isCandidate id) with
  | some a => rfl
  | none => simp only [apply_ite (withInputs q)]; rfl

theorem execCsObserveA_withInputs {id : BitVec 24} {ts : BitVec 32} (h : execCsObserveA id ts s = .next t) :
    execCsObserveA id ts (withInputs q s) = .next (withInputs q t) := by
  cases h
  simp only [execCsObserveA, evict_withInputs, makeRoomA_withInputs, withInputs_csu, apply_ite (withInputs q)]
  cases (makeRoomA (evict ts s)).csu.vh.find? (isCandidate id) <;> rfl

theorem execCsDrift_withInputs {sel : BitVec 2} (h : execCsDrift sel s = .next t) :
    execCsDrift sel (withInputs q s) = .next (withInputs q t) := by
  cases h
  simp only [execCsDrift]
  split <;> rfl

theorem execCsHistRd_withInputs {ch sel : BitVec 1} {idx : BitVec 8} (h : execCsHistRd ch sel idx s = .next t) :
    execCsHistRd ch sel idx (withInputs q s) = .next (withInputs q t) := by
  cases h
  simp only [execCsHistRd, withInputs_csu]
  cases (if ch = 0 then s.csu.vh else s.csu.ah)[idx.toNat]? <;> rfl

/-- What a command does does not depend on the words that wait behind it, and they still wait when it ends
(20_memory.md R89, 30_encoding.md R103). -/
theorem exec_withInputs {i : Instr} (h : exec i s = .next t) : exec i (withInputs q s) = .next (withInputs q t) := by
  cases i
  case cfgWr => exact execCfgWr_withInputs q h
  case cfgRd => exact execCfgRd_withInputs q h
  case rsDec => exact execRsDec_withInputs q h
  case csObserveV => exact execCsObserveV_withInputs q h
  case csObserveA => exact execCsObserveA_withInputs q h
  case csDrift => exact execCsDrift_withInputs q h
  case csHistRd => exact execCsHistRd_withInputs q h
  case nop | softReset | evtClr | cwClr | csAlign | csResync => cases h; rfl
  case frParse =>
    cases h
    simp only [exec, execFrParse, stageFinder_withInputs, apply_ite (withInputs q)]
    rfl
  case cwPush | cwRd | rsEnc | ilvSplit | ilvMerge | gridWr | gridRd | tmplWr | tmplRd | fbWr | fbRd | frDetect | frFormat
      | abWr | abRd | ptWr | ptRd | auCorr =>
    cases h
    simp only [exec, execCwPush, execCwRd, execRsEnc, execIlvSplit, execIlvMerge, execGridWr, execGridRd, execTmplWr,
      execTmplRd, execFbWr, execFbRd, execFrDetect, execFrFormat, execAbWr, execAbRd, execPtWr, execPtRd, execAuCorr,
      apply_ite (withInputs q)]
    rfl

end

/-! ### Every command answers -/

theorem exec_total (i : Instr) (s : State) : ∃ t, exec i s = .next t := by
  cases i <;> exact ⟨_, rfl⟩

theorem Ends.rsp {s t : State} (h : Ends s t) : ∃ r, t.rsp = some r := by
  obtain ⟨st, ra, rb, rfl⟩ := h
  exact ⟨_, rfl⟩

theorem CsuOutcome.rsp {i : Instr} {s t : State} (h : CsuOutcome s i t) : ∃ r, t.rsp = some r := by
  cases h with
  | read _ _ _ ht => exact ht.rsp
  | resynced _ ht => exact ht.rsp
  | visual _ _ _ ht => cases ht <;> exact ⟨_, rfl⟩
  | audio _ _ _ ht => cases ht <;> exact ⟨_, rfl⟩

/-- A command emits a response word (30_encoding.md R101). -/
theorem exec_rsp {i : Instr} {s t : State} (h : exec i s = .next t) : ∃ r, t.rsp = some r := by
  cases hu : unitOf i with
  | ctl => obtain ⟨u, _, he⟩ := exec_ctl_cases hu h; exact he.rsp
  | rsu => obtain ⟨r, _, he⟩ := exec_rsu_cases hu h; exact he.rsp
  | fmu => obtain ⟨f, _, he⟩ := exec_fmu_cases hu h; exact he.rsp
  | apc => obtain ⟨a, _, he⟩ := exec_apc_cases hu h; exact he.rsp
  | csu => exact (exec_csu_cases hu h).rsp

/-! ### One word, then a list of words -/

/-- The step that takes a word: its next state and its response are the same whatever words wait behind it, and legal or not it
gets a response (30_encoding.md R103, R106). -/
theorem step_takes_word (w : Word64) (s : State) :
    ∃ t r, t.rsp = some r ∧ ∀ q, step (withInputs (.command w :: q) s) = .next (withInputs q t) := by
  have hfetch : ∀ q, fetch (withInputs (.command w :: q) s) = some (.command w, withInputs q s) := fun _ => rfl
  cases hd : decode w with
  | ok i =>
    obtain ⟨t, ht⟩ := exec_total i s
    obtain ⟨r, hr⟩ := exec_rsp ht
    exact ⟨t, r, hr, fun q => by simp only [step, hfetch, hd, exec_withInputs q ht]⟩
  | error e => exact ⟨raise .illegalCommand 0 0 s, _, rfl, fun q => by simp only [step, hfetch, hd]; rfl⟩

/-- The steps that take the words `ws`: the state they leave and their responses are the same whatever waits behind them. -/
theorem steps_take_words (ws : List Word64) (s : State) :
    ∃ (t : State) (rs : List Word64), rs.length = ws.length ∧ ∀ q,
      after ws.length (withInputs (ws.map .command ++ q) s) = some (withInputs q t)
      ∧ ∀ n, responses (ws.length + n) (withInputs (ws.map .command ++ q) s) = rs ++ responses n (withInputs q t) := by
  induction ws generalizing s with
  | nil => exact ⟨s, [], rfl, fun q => ⟨rfl, fun n => by simp⟩⟩
  | cons w ws ih =>
    obtain ⟨u, r, hr, hstep⟩ := step_takes_word w s
    obtain ⟨t, rs, hlen, hrest⟩ := ih u
    refine ⟨t, r :: rs, by simp [hlen], fun q => ?_⟩
    obtain ⟨hafter, hresponses⟩ := hrest q
    constructor
    · simpa only [List.length_cons, List.map_cons, List.cons_append, after, hstep] using hafter
    · intro n
      rw [List.length_cons, Nat.add_right_comm]
      simp [responses, hstep, hr, hresponses]

/-- Settles O10: the words `ws` are taken alike with `vs` behind them and with nothing behind them. -/
theorem responsesAnswerCommandsInOrder : Obligations.ResponsesAnswerCommandsInOrder := by
  unfold Obligations.ResponsesAnswerCommandsInOrder
  intro ws vs s
  obtain ⟨t, rs, hlen, hwords⟩ := steps_take_words ws s
  obtain ⟨hafter, hresponses⟩ := hwords (vs.map .command)
  obtain ⟨_, hresponsesAlone⟩ := hwords []
  have halone : responses ws.length { s with inputs := ws.map .command } = rs := by
    simpa [responses, withInputs] using hresponsesAlone 0
  exact ⟨withInputs (vs.map .command) t, hafter, rfl, by rw [halone, hlen], by rw [halone]; exact hresponses vs.length⟩

end Sys2Proof.Proofs

/-! Proofs, part 11: the table of 30_encoding.md R105 said of the fields of a word, and what the decoder and the encoder do with
its rows. -/

namespace Sys2Proof.Proofs

open Sys2Proof Sys2Proof.Machine Sys2Proof.Safety

/-! ### The fields of a word (R104, R111) -/

@[simp] theorem opField_commandWord (op : BitVec 8) (a : BitVec 24) (b : BitVec 32) : opField (commandWord op a b) = op :=
  commandWord_op op a b

@[simp] theorem aField_commandWord (op : BitVec 8) (a : BitVec 24) (b : BitVec 32) : aField (commandWord op a b) = a :=
  commandWord_a op a b

@[simp] theorem bField_commandWord (op : BitVec 8) (a : BitVec 24) (b : BitVec 32) : bField (commandWord op a b) = b :=
  commandWord_b op a b

/-- A word is put together from its own fields. -/
theorem commandWord_fields (w : Word64) : commandWord (opField w) (aField w) (bField w) = w := by
  refine BitVec.eq_of_getLsbD_eq fun i hi => ?_
  rw [commandWord_bit, opField, aField, bField]
  split_ifs with hb ha
  · simp [hb]
  · rw [BitVec.getLsbD_extractLsb', decide_eq_true (by omega), Bool.true_and, Nat.add_sub_cancel' (by omega)]
  · rw [BitVec.getLsbD_extractLsb', decide_eq_true (by omega), Bool.true_and, Nat.add_sub_cancel' (by omega)]

theorem commandWord_and (op op' : BitVec 8) (a a' : BitVec 24) (b b' : BitVec 32) :
    commandWord op a b &&& commandWord op' a' b' = commandWord (op &&& op') (a &&& a') (b &&& b') := by
  refine BitVec.eq_of_getLsbD_eq fun i _ => ?_
  simp only [BitVec.getLsbD_and, commandWord_bit]
  split_ifs <;> rfl

theorem commandWord_inj {op op' : BitVec 8} {a a' : BitVec 24} {b b' : BitVec 32} :
    commandWord op a b = commandWord op' a' b' ↔ op = op' ∧ a = a' ∧ b = b' := by
  constructor
  · intro h
    simpa using And.intro (congrArg opField h) (And.intro (congrArg aField h) (congrArg bField h))
  · rintro ⟨rfl, rfl, rfl⟩
    rfl

/-! ### The rows -/

/-- A row of R105, said of the fields: the opcode, the bits of `A` and of `B` that are no operand bits, and the command the row
makes of `A` and `B`. -/
inductive Row : BitVec 8 → BitVec 24 → BitVec 32 → (BitVec 24 → BitVec 32 → Instr) → Prop
  | nop : Row 0x00 0xFFFFFF 0xFFFFFFFF fun _ _ => .nop
  | cfgWr : Row 0x01 0xFFFF00 0x00000000 fun a b => .cfgWr (a.extractLsb' 0 8) b
  | cfgRd : Row 0x02 0xFFFF00 0xFFFFFFFF fun a _ => .cfgRd (a.extractLsb' 0 8)
  | softReset : Row 0x03 0xFFFFFF 0xFFFFFFFF fun _ _ => .softReset
  | evtClr : Row 0x04 0xFFFFFF 0xFFFFFFF9 fun _ b => .evtClr (b.extractLsb' 1 2)
  | cwClr : Row 0x10 0xFFFFFF 0xFFFFFFFF fun _ _ => .cwClr
  | cwPush : Row 0x11 0xFFFE00 0xFFFFFFFF fun a _ => .cwPush (a.extractLsb' 0 8) (a.extractLsb' 8 1)
  | cwRd : Row 0x12 0xFFFF00 0xFFFFFFFF fun a _ => .cwRd (a.extractLsb' 0 8)
  | rsEnc : Row 0x13 0xFFFF00 0xFFFFFFFF fun a _ => .rsEnc (a.extractLsb' 0 8)
  | rsDec : Row 0x14 0xFFFF00 0xFFFFFFFF fun a _ => .rsDec (a.extractLsb' 0 8)
  | ilvSplit : Row 0x15 0xFFFF00 0xFFFFFFFF fun a _ => .ilvSplit (a.extractLsb' 0 8)
  | ilvMerge : Row 0x16 0xFFFF00 0xFFFF0000 fun a b => .ilvMerge (a.extractLsb' 0 8) (b.extractLsb' 0 16)
  | gridWr : Row 0x20 0xFF0000 0xFFFFFFF8 fun a b => .gridWr (a.extractLsb' 0 16) (b.extractLsb' 0 3)
  | gridRd : Row 0x21 0xFF0000 0xFFFFFFFF fun a _ => .gridRd (a.extractLsb' 0 16)
  | tmplWr : Row 0x22 0xFF0000 0xFFFFFFF0 fun a b =>
      .tmplWr (a.extractLsb' 0 16) (b.extractLsb' 3 1) (b.extractLsb' 0 3)
  | tmplRd : Row 0x23 0xFF0000 0xFFFFFFFF fun a _ => .tmplRd (a.extractLsb' 0 16)
  | fbWr : Row 0x24 0xFF0000 0xFFFFFF00 fun a b => .fbWr (a.extractLsb' 0 16) (b.extractLsb' 0 8)
  | fbRd : Row 0x25 0xFF0000 0xFFFFFFFF fun a _ => .fbRd (a.extractLsb' 0 16)
  | frDetect : Row 0x26 0xFFFFFF 0xFFFFFFFF fun _ _ => .frDetect
  | frParse : Row 0x27 0xFFFFFF 0xFFFFFFFF fun _ _ => .frParse
  | frFormat : Row 0x28 0xFFFFFF 0xFFFFFFFF fun _ _ => .frFormat
  | abWr : Row 0x30 0xFF0000 0xFFFF0000 fun a b => .abWr (a.extractLsb' 0 16) (b.extractLsb' 0 16)
  | abRd : Row 0x31 0xFF0000 0xFFFFFFFF fun a _ => .abRd (a.extractLsb' 0 16)
  | ptWr : Row 0x32 0xFF0000 0xFFFF0000 fun a b => .ptWr (a.extractLsb' 0 16) (b.extractLsb' 0 16)
  | ptRd : Row 0x33 0xFF0000 0xFFFFFFFF fun a _ => .ptRd (a.extractLsb' 0 16)
  | auCorr : Row 0x34 0xFFFFFF 0xFFFFFFFF fun _ _ => .auCorr
  | csObserveV : Row 0x40 0x000000 0x00000000 fun a b => .csObserveV a b
  | csObserveA : Row 0x41 0x000000 0x00000000 fun a b => .csObserveA a b
  | csDrift : Row 0x42 0xFFFFFC 0xFFFFFFFF fun a _ => .csDrift (a.extractLsb' 0 2)
  | csAlign : Row 0x43 0xFFFFFF 0x00000000 fun _ b => .csAlign b
  | csResync : Row 0x44 0xFFFFFF 0xFFFFFFFF fun _ _ => .csResync
  | csHistRd : Row 0x45 0xFF00FC 0xFFFFFFFF fun a _ =>
      .csHistRd (a.extractLsb' 0 1) (a.extractLsb' 1 1) (a.extractLsb' 8 8)

section
variable {op : BitVec 8} {ra : BitVec 24} {rb : BitVec 32} {mk : BitVec 24 → BitVec 32 → Instr}

/-- The masked comparison of R104 step 2 is a test of the reserved bits of `A` and `B`. -/
theorem acceptRow_commandWord {mask pattern : Word64} (hmask : mask = commandWord 0xFF ra rb)
    (hpattern : pattern = commandWord op 0#24 0#32) (a : BitVec 24) (b : BitVec 32) (i : Instr) :
    acceptRow (commandWord op a b) mask pattern i
      = if a &&& ra = 0#24 ∧ b &&& rb = 0#32 then .ok i else .error .reservedBit := by
  subst hmask hpattern
  have hop : op &&& 0xFF = op := BitVec.and_allOnes
  simp only [acceptRow, commandWord_and, commandWord_inj, hop, true_and]

/-- The decoder reads a word by the row of its opcode. -/
theorem decode_of_row (hr : Row op ra rb mk) (a : BitVec 24) (b : BitVec 32) :
    decode (commandWord op a b)
      = if a &&& ra = 0#24 ∧ b &&& rb = 0#32 then .ok (mk a b) else .error .reservedBit := by
  simp only [decode, opField_commandWord, aField_commandWord, bField_commandWord]
  induction hr
  all_goals exact acceptRow_commandWord (by decide) (by decide) _ _ _

/-! ### The opcodes (R106) -/

theorem opcodeAssigned_of_row (hr : Row op ra rb mk) (a : BitVec 24) (b : BitVec 32) :
    opcodeAssigned (commandWord op a b) = true := by
  simp only [opcodeAssigned, commandWord_op]
  induction hr
  all_goals decide

/-- Each opcode of the ranges that R106 leaves has a row. -/
theorem row_of_opcodeAssigned {a : BitVec 24} {b : BitVec 32} (h : opcodeAssigned (commandWord op a b) = true) :
    ∃ ra rb mk, Row op ra rb mk := by
  obtain ⟨n, hn⟩ : ∃ n, op.toNat = n := ⟨_, rfl⟩
  obtain rfl : op = BitVec.ofNat 8 n := BitVec.eq_of_toNat_eq (by simp [← hn])
  simp only [opcodeAssigned, commandWord_op, hn, Bool.or_eq_true, Bool.and_eq_true, decide_eq_true_eq, or_assoc] at h
  obtain hctl | ⟨hlo, hhi⟩ | ⟨hlo, hhi⟩ | ⟨hlo, hhi⟩ | ⟨hlo, hhi⟩ := h
  all_goals
    interval_cases n
    all_goals exact ⟨_, _, _, by constructor⟩

theorem decode_of_not_opcodeAssigned {w : Word64} (h : opcodeAssigned w = false) :
    decode w = .error .reservedOpcode := by
  unfold decode
  split
  case h_33 => rfl
  all_goals
    rename_i hop
    have hop' : (w.extractLsb' 56 8).toNat = _ := hop
    simp [opcodeAssigned, hop'] at h

/-! ### The reserved bits (R107) -/

/-- No bit from `k` on is set: the value is below `2^k`. -/
theorem and_allOnes_shiftLeft_eq_zero_iff {n : Nat} (x : BitVec n) (k : Nat) :
    x &&& (BitVec.allOnes n <<< k) = 0#n ↔ x.toNat < 2 ^ k := by
  have hlt : x.toNat / 2 ^ k * 2 ^ k < 2 ^ n := (Nat.div_mul_le_self _ _).trans_lt x.isLt
  rw [← BitVec.shiftLeft_ushiftRight, ← BitVec.toNat_inj, BitVec.toNat_shiftLeft, BitVec.toNat_ushiftRight,
    Nat.shiftLeft_eq, Nat.shiftRight_eq_div_pow, Nat.mod_eq_of_lt hlt]
  simp [Nat.div_eq_zero_iff]

/-- `B[0]`, which `EVT_CLR` does not use. -/
theorem and_bit0_eq_zero_iff (b : BitVec 32) : b &&& 1#32 = 0#32 ↔ b.toNat % 2 ≠ 1 := by
  rw [← BitVec.toNat_inj, BitVec.toNat_and, show (1#32).toNat = 1 from rfl, Nat.and_one_is_mod]
  simp

/-- `A[7:2]`, which `CS_HIST_RD` does not use. -/
theorem and_bits2to7_eq_zero_iff (a : BitVec 24) : a &&& 0xFC#24 = 0#24 ↔ a.toNat / 4 % 64 = 0 := by
  have h : a &&& 0xFC#24 = (a.extractLsb' 2 6).setWidth 24 <<< 2 := by
    refine BitVec.eq_of_getLsbD_eq fun i hi => ?_
    interval_cases i
    all_goals simp
  rw [h, ← BitVec.toNat_inj, BitVec.toNat_shiftLeft, BitVec.toNat_setWidth, BitVec.extractLsb'_toNat, Nat.shiftLeft_eq,
    Nat.shiftRight_eq_div_pow, BitVec.toNat_zero]
  omega

/-- The reserved bits of a row are those above the used ones, and the two gaps of `EVT_CLR` and `CS_HIST_RD`. -/
theorem reserved_of_row (hr : Row op ra rb mk) :
    ra = BitVec.allOnes 24 <<< usedBitsA op.toNat ||| (if op.toNat = 0x45 then 0xFC#24 else 0#24)
      ∧ rb = BitVec.allOnes 32 <<< usedBitsB op.toNat ||| (if op.toNat = 0x04 then 1#32 else 0#32) := by
  induction hr
  all_goals decide

theorem reservedBitsZero_commandWord (op : BitVec 8) (a : BitVec 24) (b : BitVec 32) :
    reservedBitsZero (commandWord op a b) = true ↔
      (a.toNat < 2 ^ usedBitsA op.toNat ∧ (op.toNat = 0x45 → a.toNat / 4 % 64 = 0))
        ∧ b.toNat < 2 ^ usedBitsB op.toNat ∧ (op.toNat = 0x04 → b.toNat % 2 ≠ 1) := by
  simp only [reservedBitsZero, commandWord_op, commandWord_a, commandWord_b]
  grind

theorem reservedBitsZero_of_row (hr : Row op ra rb mk) (a : BitVec 24) (b : BitVec 32) :
    reservedBitsZero (commandWord op a b) = true ↔ a &&& ra = 0#24 ∧ b &&& rb = 0#32 := by
  have hgapA : a &&& (if op.toNat = 0x45 then 0xFC#24 else 0#24) = 0#24
      ↔ (op.toNat = 0x45 → a.toNat / 4 % 64 = 0) := by
    split_ifs with h
    · simp only [and_bits2to7_eq_zero_iff, h, true_imp_iff]
    · simp [h]
  have hgapB : b &&& (if op.toNat = 0x04 then 1#32 else 0#32) = 0#32 ↔ (op.toNat = 0x04 → b.toNat % 2 ≠ 1) := by
    split_ifs with h
    · simp only [and_bit0_eq_zero_iff, h, true_imp_iff]
    · simp [h]
  obtain ⟨rfl, rfl⟩ := reserved_of_row hr
  simp only [BitVec.and_or_distrib_left, BitVec.or_eq_zero_iff, hgapA, hgapB, and_allOnes_shiftLeft_eq_zero_iff,
    reservedBitsZero_commandWord]

theorem legalWord_of_row (hr : Row op ra rb mk) (a : BitVec 24) (b : BitVec 32) :
    legalWord (commandWord op a b) = true ↔ a &&& ra = 0#24 ∧ b &&& rb = 0#32 := by
  rw [legalWord, opcodeAssigned_of_row hr, Bool.true_and, reservedBitsZero_of_row hr]

/-! ### The encoder -/

theorem and_eq_zero_iff {n : Nat} {x mask : BitVec n} : x &&& mask = 0#n ↔ x &&& ~~~mask = x := by
  constructor
  · intro h
    calc x &&& ~~~mask = (x &&& ~~~mask) ||| (x &&& mask) := by rw [h, BitVec.or_zero]
      _ = x := by rw [← BitVec.and_or_distrib_left, BitVec.not_or_self, BitVec.and_allOnes]
  · intro h
    rw [← h, BitVec.and_assoc, BitVec.not_and_self]
    exact BitVec.and_zero

/-- An operand field from bit 0 on, put back where it came from: the other bits are gone. -/
theorem setWidth_extractLsb'_zero {n k : Nat} {x mask : BitVec n} (hmask : mask = BitVec.allOnes n <<< k) :
    (x.extractLsb' 0 k).setWidth n = x &&& ~~~mask := by
  subst hmask
  refine BitVec.eq_of_getLsbD_eq fun i hi => ?_
  simp only [BitVec.getLsbD_setWidth, BitVec.getLsbD_extractLsb', BitVec.getLsbD_and, BitVec.getLsbD_not,
    BitVec.getLsbD_shiftLeft, BitVec.getLsbD_allOnes]
  grind

/-- Two adjacent operand fields, the lower from bit 0 on, put back where they came from (`CW_PUSH`, `TMPL_WR`). -/
theorem zero_append_extractLsb' {z m k : Nat} {x mask : BitVec (z + m + k)}
    (hmask : mask = BitVec.allOnes (z + m + k) <<< (k + m)) :
    0#z ++ x.extractLsb' k m ++ x.extractLsb' 0 k = x &&& ~~~mask := by
  subst hmask
  refine BitVec.eq_of_getLsbD_eq fun i hi => ?_
  simp only [BitVec.getLsbD_append, BitVec.getLsbD_extractLsb', BitVec.getLsbD_zero, BitVec.getLsbD_and,
    BitVec.getLsbD_not, BitVec.getLsbD_shiftLeft, BitVec.getLsbD_allOnes]
  grind

/-- The operand of `EVT_CLR`, put back where it came from. -/
theorem evtClr_operandBits (b : BitVec 32) : (0#29 ++ b.extractLsb' 1 2 ++ 0#1 : BitVec 32) = b &&& ~~~0xFFFFFFF9 := by
  refine BitVec.eq_of_getLsbD_eq fun i hi => ?_
  simp only [BitVec.getLsbD_append, BitVec.getLsbD_extractLsb', BitVec.getLsbD_and, BitVec.getLsbD_zero]
  interval_cases i
  all_goals simp

/-- The operands of `CS_HIST_RD`, put back where they came from. -/
theorem csHistRd_operandBits (a : BitVec 24) :
    (0#8 ++ a.extractLsb' 8 8 ++ 0#6 ++ a.extractLsb' 1 1 ++ a.extractLsb' 0 1 : BitVec 24) = a &&& ~~~0xFF00FC := by
  refine BitVec.eq_of_getLsbD_eq fun i hi => ?_
  simp only [BitVec.getLsbD_append, BitVec.getLsbD_extractLsb', BitVec.getLsbD_and, BitVec.getLsbD_zero]
  interval_cases i
  all_goals simp

/-- Encoding what a row makes of `A` and `B` gives them back with the reserved bits cleared. -/
theorem encode_of_row (hr : Row op ra rb mk) (a : BitVec 24) (b : BitVec 32) :
    encode (mk a b) = commandWord op (a &&& ~~~ra) (b &&& ~~~rb) := by
  have noA : 0#24 = a &&& ~~~0xFFFFFF := by simp
  have noB : 0#32 = b &&& ~~~0xFFFFFFFF := by simp
  have allA : a = a &&& ~~~0#24 := (and_eq_zero_iff.mp BitVec.and_zero).symm
  have allB : b = b &&& ~~~0#32 := (and_eq_zero_iff.mp BitVec.and_zero).symm
  induction hr
  case nop | softReset | cwClr | frDetect | frParse | frFormat | auCorr | csResync =>
    exact congrArg₂ (commandWord _) noA noB
  case cfgRd | cwRd | rsEnc | rsDec | ilvSplit | gridRd | tmplRd | fbRd | abRd | ptRd | csDrift =>
    exact congrArg₂ (commandWord _) (setWidth_extractLsb'_zero (by decide)) noB
  case ilvMerge | gridWr | fbWr | abWr | ptWr =>
    exact congrArg₂ (commandWord _) (setWidth_extractLsb'_zero (by decide)) (setWidth_extractLsb'_zero (by decide))
  case csObserveV | csObserveA => exact congrArg₂ (commandWord _) allA allB
  case cfgWr => exact congrArg₂ (commandWord _) (setWidth_extractLsb'_zero (by decide)) allB
  case csAlign => exact congrArg₂ (commandWord _) noA allB
  case evtClr => exact congrArg₂ (commandWord _) noA (evtClr_operandBits b)
  case cwPush =>
    exact congrArg₂ (commandWord _) (zero_append_extractLsb' (z := 15) (m := 1) (k := 8) (by decide)) noB
  case tmplWr =>
    exact congrArg₂ (commandWord _) (setWidth_extractLsb'_zero (by decide))
      (zero_append_extractLsb' (z := 28) (m := 1) (k := 3) (by decide))
  case csHistRd => exact congrArg₂ (commandWord _) (csHistRd_operandBits a) noB

/-- A command that is what its row makes of the fields of its word: no reserved bit is set in that word, so it decodes. -/
theorem decode_encode_of_row {i : Instr} {a : BitVec 24} {b : BitVec 32} (hr : Row op ra rb mk)
    (hword : encode i = commandWord op a b) (hi : mk a b = i) : decode (encode i) = .ok i := by
  have hcleared : commandWord op a b = commandWord op (a &&& ~~~ra) (b &&& ~~~rb) := by
    rw [← encode_of_row hr, hi, hword]
  obtain ⟨_, ha, hb⟩ := commandWord_inj.mp hcleared
  rw [hword, decode_of_row hr, if_pos ⟨and_eq_zero_iff.mpr ha.symm, and_eq_zero_iff.mpr hb.symm⟩, hi]

end

end Sys2Proof.Proofs

/-! Proofs, part 12: words and commands (O1, O2, O3, O6), and the step that takes a word (O4, O5). -/

namespace Sys2Proof.Proofs

open Sys2Proof Sys2Proof.Machine Sys2Proof.Safety

/-! ### From a command to its word and back -/

theorem extractLsb'_setWidth_self {k n : Nat} (x : BitVec k) (h : k ≤ n) : (x.setWidth n).extractLsb' 0 k = x := by
  rw [BitVec.extractLsb'_setWidth_of_le (by omega), BitVec.extractLsb'_eq_self]

theorem extractLsb'_append_middle {z m k : Nat} (x : BitVec z) (y : BitVec m) (v : BitVec k) :
    (x ++ y ++ v).extractLsb' k m = y := by
  rw [BitVec.extractLsb'_append_eq_of_le le_rfl, Nat.sub_self, BitVec.extractLsb'_append_eq_right]

/-- Settles O1: each operand is read from the bits the encoder puts it at; four commands do not put theirs at bit 0. -/
theorem decodeInvertsEncode : Obligations.DecodeInvertsEncode := by
  unfold Obligations.DecodeInvertsEncode
  intro i
  cases i
  case evtClr mask => exact decode_encode_of_row .evtClr rfl (congrArg _ (extractLsb'_append_middle _ mask _))
  case cwPush sym era =>
    exact decode_encode_of_row .cwPush rfl
      (congrArg₂ _ BitVec.extractLsb'_append_eq_right (extractLsb'_append_middle _ era _))
  case tmplWr idx resv tval =>
    exact decode_encode_of_row .tmplWr rfl
      (congr (congrArg₂ _ (extractLsb'_setWidth_self idx (by decide)) (extractLsb'_append_middle _ resv _))
        BitVec.extractLsb'_append_eq_right)
  case csHistRd ch sel idx =>
    have hidx : (0#8 ++ idx ++ 0#6 ++ sel ++ ch).extractLsb' 8 8 = idx :=
      ((BitVec.extractLsb'_append_eq_of_le (by decide)).trans (BitVec.extractLsb'_append_eq_of_le (by decide))).trans
        (extractLsb'_append_middle _ idx _)
    exact decode_encode_of_row .csHistRd rfl
      (congr (congrArg₂ _ BitVec.extractLsb'_append_eq_right (extractLsb'_append_middle _ sel _)) hidx)
  all_goals exact decode_encode_of_row (by constructor) rfl (by simp [extractLsb'_setWidth_self])

/-! ### From a word to its command -/

/-- Everything the decoder can answer (R104 to R107). -/
theorem decode_cases (w : Word64) :
    (opcodeAssigned w = false ∧ legalWord w = false ∧ decode w = .error .reservedOpcode)
      ∨ (opcodeAssigned w = true ∧ legalWord w = false ∧ decode w = .error .reservedBit)
      ∨ (opcodeAssigned w = true ∧ legalWord w = true ∧ ∃ i, decode w = .ok i ∧ encode i = w) := by
  rw [← commandWord_fields w]
  cases hop : opcodeAssigned (commandWord (opField w) (aField w) (bField w)) with
  | false => exact .inl ⟨rfl, by rw [legalWord, hop, Bool.false_and], decode_of_not_opcodeAssigned hop⟩
  | true =>
    obtain ⟨ra, rb, mk, hr⟩ := row_of_opcodeAssigned hop
    have hlegal := legalWord_of_row hr (aField w) (bField w)
    rw [decode_of_row hr]
    split_ifs with hz
    · obtain ⟨ha, hb⟩ := hz
      refine .inr (.inr ⟨rfl, hlegal.mpr ⟨ha, hb⟩, _, rfl, ?_⟩)
      rw [encode_of_row hr, and_eq_zero_iff.mp ha, and_eq_zero_iff.mp hb]
    · exact .inr (.inl ⟨rfl, eq_false_of_ne_true (mt hlegal.mp hz), rfl⟩)

/-- Settles O2: of the three answers of `decode_cases`, the one with a command names its word. -/
theorem encodeInvertsDecode : Obligations.EncodeInvertsDecode := by
  unfold Obligations.EncodeInvertsDecode
  intro w i h
  obtain ⟨_, _, hd⟩ | ⟨_, _, hd⟩ | ⟨_, _, j, hd, henc⟩ := decode_cases w
  all_goals cases hd.symm.trans h
  exact henc

/-- Settles O3: each of the three answers of `decode_cases` says which check of the word it goes with. -/
theorem decodeAcceptsExactlyTheLegalWords : Obligations.DecodeAcceptsExactlyTheLegalWords := by
  unfold Obligations.DecodeAcceptsExactlyTheLegalWords
  intro w
  obtain ⟨hop, hlegal, hd⟩ | ⟨hop, hlegal, hd⟩ | ⟨hop, hlegal, i, hd, _⟩ := decode_cases w
  all_goals simp [hop, hlegal, hd]

/-- Settles O6: seven of the words are the encoder's words of their commands, and the last has A[9] set. -/
theorem exampleWordsDecode : Obligations.ExampleWordsDecode := by
  unfold Obligations.ExampleWordsDecode
  have hword {w : Word64} (i : Instr) (hw : encode i = w) : decode w = .ok i := hw ▸ decodeInvertsEncode i
  exact ⟨hword _ (by decide), hword _ (by decide), hword _ (by decide), hword _ (by decide), hword _ (by decide),
    hword _ (by decide), hword _ (by decide), by decide⟩

/-! ### The step that takes a word (R103) -/

section
variable {w : Word64} {rest : List HostInput} {s : State}

theorem step_of_decode_ok {i : Instr} (hin : s.inputs = .command w :: rest) (hd : decode w = .ok i) :
    step s = exec i { s with inputs := rest } := by
  simp only [step, fetch_cons _ _ s hin, hd]

theorem step_of_decode_error {e : Reject} (hin : s.inputs = .command w :: rest) (hd : decode w = .error e) :
    step s = .next (raise .illegalCommand 0 0 { s with inputs := rest }) := by
  simp only [step, fetch_cons _ _ s hin, hd]

end

theorem decode_of_not_legalWord {w : Word64} (h : legalWord w = false) : ∃ e, decode w = .error e := by
  obtain ⟨_, _, hd⟩ | ⟨_, _, hd⟩ | ⟨_, hlegal, _⟩ := decode_cases w
  · exact ⟨_, hd⟩
  · exact ⟨_, hd⟩
  · cases h.symm.trans hlegal

theorem decode_of_decodeTableWord {nbits w : Nat} {i : Instr} (h : decodeTableWord nbits w = some i) :
    decode (tableWord nbits w) = .ok i := by
  unfold decodeTableWord at h
  split at h
  case h_1 j hd => cases h; exact hd
  case h_2 => cases h

/-- Settles O4: the decoder refuses the word, and taking the exception is what `settled` says. -/
theorem illegalWordChangesOnlyStatus : Obligations.IllegalWordChangesOnlyStatus := by
  unfold Obligations.IllegalWordChangesOnlyStatus
  intro w rest s hin hlegal
  obtain ⟨e, hd⟩ := decode_of_not_legalWord hlegal
  rw [step_of_decode_error hin hd, raise_eq_settled, codeOf]

/-- Settles O5: a table word is presented as the first of the waiting inputs, with those of `s` behind it. -/
theorem stepRunsDecodedCommand : Obligations.StepRunsDecodedCommand := by
  unfold Obligations.StepRunsDecodedCommand
  constructor
  · intro w i rest s
    exact step_of_decode_ok
  · intro nbits w i s h
    exact step_of_decode_ok (s := s.withFetchWord nbits w) rfl (decode_of_decodeTableWord h)

end Sys2Proof.Proofs

/-! Proofs, part 13: a command ends with one of the outcomes tabulated for it (O11). -/

namespace Sys2Proof.Proofs

open Sys2Proof Sys2Proof.Machine Sys2Proof.Safety

/-- `t` is reached from `s` by a command that ended with a code of the list: it is in `STATUS` and in the response word, the
waiting inputs are those of `s`, and the model's counter has advanced (30_encoding.md R101, 60_exceptions.md R312). -/
def EndsAmong (codes : List (BitVec 8)) (s t : State) : Prop :=
  ∃ (st : BitVec 8) (ra : BitVec 24) (rb : BitVec 32), st ∈ codes ∧ t.ctl.status = st
    ∧ t.rsp = some (st ++ ra ++ rb : Word64) ∧ t.inputs = s.inputs ∧ t.draws = s.draws + 1

/-! ### Ending a command -/

section
variable {codes : List (BitVec 8)} {s u : State} {st : OutcomeCode} {ra : BitVec 24} {rb : BitVec 32}

/-- A command may change what it likes before its end, except the waiting inputs and the counter. -/
theorem endsAmong_respond (hcode : codeOf st ∈ codes) (hinputs : u.inputs = s.inputs) (hdraws : u.draws = s.draws) :
    EndsAmong codes s (respond st ra rb u) :=
  ⟨codeOf st, ra, rb, hcode, rfl, rfl, hinputs, congrArg (· + 1) hdraws⟩

theorem endsAmong_raise (hcode : codeOf st ∈ codes) (hinputs : u.inputs = s.inputs) (hdraws : u.draws = s.draws) :
    EndsAmong codes s (raise st ra rb u) :=
  endsAmong_respond hcode hinputs hdraws

/-- A check of a command: it ends in the exception, or goes on. -/
theorem endsAmong_check {c : Prop} [Decidable c] {t : State} (hcode : codeOf st ∈ codes) (hinputs : u.inputs = s.inputs)
    (hdraws : u.draws = s.draws) (ht : EndsAmong codes s t) : EndsAmong codes s (if c then raise st ra rb u else t) := by
  split_ifs
  · exact endsAmong_raise hcode hinputs hdraws
  · exact ht

end

/-! ### The commands that do more than check and end -/

section
variable {s t : State}

theorem execCfgWr_endsAmong {reg : BitVec 8} {val : BitVec 32} (h : execCfgWr reg val s = .next t) :
    EndsAmong [0x00, 0x11, 0x12] s t := by
  simp only [execCfgWr, Host.Outcome.next.injEq] at h
  subst h
  split
  case h_1 => exact endsAmong_raise (by decide) rfl rfl
  case h_2 r _ =>
    split
    case h_1 => exact endsAmong_raise (by decide) rfl rfl
    case h_2 =>
      obtain ⟨hbuffers, _, hdraws, _, _⟩ := writeReg_frame s r val
      obtain ⟨_, _, _, _, _, _, _, _, _, hinputs⟩ := hbuffers
      split_ifs
      · exact endsAmong_respond (by decide) hinputs hdraws
      · exact endsAmong_raise (by decide) rfl rfl

theorem execCfgRd_endsAmong {reg : BitVec 8} (h : execCfgRd reg s = .next t) : EndsAmong [0x00, 0x11] s t := by
  simp only [execCfgRd, Host.Outcome.next.injEq] at h
  subst h
  split
  · exact endsAmong_raise (by decide) rfl rfl
  · exact endsAmong_respond (by decide) rfl rfl

theorem execRsDec_endsAmong {k : BitVec 8} (h : execRsDec k s = .next t) : EndsAmong [0x00, 0x01, 0x02, 0x12] s t := by
  simp only [execRsDec, Host.Outcome.next.injEq] at h
  subst h
  refine endsAmong_check (by decide) rfl rfl (endsAmong_check (by decide) rfl rfl ?_)
  split
  · exact endsAmong_raise (by decide) rfl rfl
  · exact endsAmong_respond (by decide) rfl rfl

theorem stagePayload_endsAmong (g : Geom) (bits : List Bool) (hd : Header) {u : State} (hinputs : u.inputs = s.inputs)
    (hdraws : u.draws = s.draws) : EndsAmong [0x00, 0x01, 0x03, 0x04, 0x12] s (stagePayload g bits hd u) := by
  simp only [stagePayload, stageDone]
  exact endsAmong_check (by decide) hinputs hdraws (endsAmong_respond (by decide) hinputs hdraws)

theorem stageHeader_endsAmong (g : Geom) {u : State} (hinputs : u.inputs = s.inputs) (hdraws : u.draws = s.draws) :
    EndsAmong [0x00, 0x01, 0x03, 0x04, 0x12] s (stageHeader g u) := by
  simp only [stageHeader, stageChecksum]
  exact endsAmong_check (by decide) hinputs hdraws (stagePayload_endsAmong g _ _ hinputs hdraws)

theorem stageFinder_endsAmong (g : Geom) (s : State) : EndsAmong [0x00, 0x01, 0x03, 0x04, 0x12] s (stageFinder g s) := by
  simp only [stageFinder]
  exact endsAmong_check (by decide) rfl rfl (stageHeader_endsAmong g rfl rfl)

theorem makeRoomV_ports (s : State) : (makeRoomV s).inputs = s.inputs ∧ (makeRoomV s).draws = s.draws := by
  obtain ⟨_, h⟩ | ⟨_, h⟩ := makeRoomV_cases s <;> simp [h]

theorem makeRoomA_ports (s : State) : (makeRoomA s).inputs = s.inputs ∧ (makeRoomA s).draws = s.draws := by
  obtain ⟨_, h⟩ | ⟨_, h⟩ := makeRoomA_cases s <;> simp [h]

theorem VisualOutcome.endsAmong {id : BitVec 24} {ts : BitVec 32} (h : VisualOutcome id ts s t) :
    EndsAmong [0x00, 0x07] s t := by
  obtain ⟨hinputs, hdraws⟩ := makeRoomV_ports (evict ts s)
  cases h with
  | pending => exact endsAmong_raise (by decide) rfl rfl
  | duplicate => exact endsAmong_respond (by decide) rfl rfl
  | matched => exact endsAmong_respond (by decide) hinputs hdraws
  | lost => exact endsAmong_raise (by decide) hinputs hdraws
  | lone => exact endsAmong_respond (by decide) hinputs hdraws

theorem AudioOutcome.endsAmong {id : BitVec 24} {ts : BitVec 32} (h : AudioOutcome id ts s t) :
    EndsAmong [0x00, 0x07] s t := by
  obtain ⟨hinputs, hdraws⟩ := makeRoomA_ports (evict ts s)
  cases h with
  | pending => exact endsAmong_raise (by decide) rfl rfl
  | duplicate => exact endsAmong_respond (by decide) rfl rfl
  | matched => exact endsAmong_respond (by decide) hinputs hdraws
  | lone => exact endsAmong_respond (by decide) hinputs hdraws

theorem execCsDrift_endsAmong {sel : BitVec 2} (h : execCsDrift sel s = .next t) : EndsAmong [0x00] s t := by
  simp only [execCsDrift, Host.Outcome.next.injEq] at h
  subst h
  split <;> exact endsAmong_respond (by decide) rfl rfl

theorem execCsHistRd_endsAmong {ch sel : BitVec 1} {idx : BitVec 8} (h : execCsHistRd ch sel idx s = .next t) :
    EndsAmong [0x00, 0x11] s t := by
  simp only [execCsHistRd, Host.Outcome.next.injEq] at h
  subst h
  split
  · exact endsAmong_raise (by decide) rfl rfl
  · exact endsAmong_respond (by decide) rfl rfl

end

/-! ### Every command -/

/-- The checks of a command come one after the other, each with the outcome R311 tabulates for it. -/
theorem exec_endsAmong {i : Instr} {s t : State} (h : exec i s = .next t) : EndsAmong (outcomesOf i) s t := by
  cases i
  case nop | softReset | evtClr | cwClr | csAlign | csResync =>
    cases h
    exact endsAmong_respond (by simp [outcomesOf, codeOf]) rfl rfl
  case cwRd | gridRd | tmplRd | fbWr | fbRd | abWr | abRd | ptWr | ptRd =>
    cases h
    refine endsAmong_check (by simp [outcomesOf, codeOf]) rfl rfl ?_
    exact endsAmong_respond (by simp [outcomesOf, codeOf]) rfl rfl
  case gridWr | tmplWr | cwPush | rsEnc | ilvMerge | frDetect | frFormat =>
    cases h
    refine endsAmong_check (by simp [outcomesOf, codeOf]) rfl rfl ?_
    refine endsAmong_check (by simp [outcomesOf, codeOf]) rfl rfl ?_
    exact endsAmong_respond (by simp [outcomesOf, codeOf]) rfl rfl
  case ilvSplit | auCorr =>
    cases h
    refine endsAmong_check (by simp [outcomesOf, codeOf]) rfl rfl ?_
    refine endsAmong_check (by simp [outcomesOf, codeOf]) rfl rfl ?_
    refine endsAmong_check (by simp [outcomesOf, codeOf]) rfl rfl ?_
    exact endsAmong_respond (by simp [outcomesOf, codeOf]) rfl rfl
  case frParse =>
    cases h
    refine endsAmong_check (by simp [outcomesOf, codeOf]) rfl rfl ?_
    refine endsAmong_check (by simp [outcomesOf, codeOf]) rfl rfl ?_
    exact stageFinder_endsAmong _ s
  case cfgWr => exact execCfgWr_endsAmong h
  case cfgRd => exact execCfgRd_endsAmong h
  case rsDec => exact execRsDec_endsAmong h
  case csObserveV => exact (execCsObserveV_outcome h).endsAmong
  case csObserveA => exact (execCsObserveA_outcome h).endsAmong
  case csDrift => exact execCsDrift_endsAmong h
  case csHistRd => exact execCsHistRd_endsAmong h

/-- Settles O11: `EndsAmong` with the command's own list is what it claims. -/
theorem commandEndsWithOneTabulatedOutcome : Obligations.CommandEndsWithOneTabulatedOutcome := by
  unfold Obligations.CommandEndsWithOneTabulatedOutcome
  exact fun _ _ _ => exec_endsAmong

end Sys2Proof.Proofs

/-! Proofs, part 14: the control commands (O16, O17, O19). -/

namespace Sys2Proof.Proofs

open Sys2Proof Sys2Proof.Machine Sys2Proof.Safety

/-- The word the encoder makes of a command is that command's word. -/
theorem hasWord_of_encode {i : Instr} {op : BitVec 8} {a : BitVec 24} {b : BitVec 32} (h : encode i = commandWord op a b) :
    hasWord i op a b := by
  rw [hasWord, ← h]
  exact decodeInvertsEncode i

/-! ### The commands with a fixed effect -/

theorem acknowledgeResync_evt_bit (s : State) :
    ∀ i < 3, (acknowledgeResync s).ctl.evt.getLsbD i = (decide (i ≠ 0) && s.ctl.evt.getLsbD i) := by
  intro i hi
  rw [acknowledgeResync_ctl_evt, BitVec.getLsbD_and, Bool.and_comm]
  interval_cases i
  all_goals rfl

/-- Settles O16: each of the four commands ends with `OK` in the state its rule names; of `EVT` only bit 0 is cleared. -/
theorem fixedEffectCommands : Obligations.FixedEffectCommands := by
  unfold Obligations.FixedEffectCommands
  refine ⟨⟨hasWord_of_encode rfl, hasWord_of_encode rfl, hasWord_of_encode rfl, hasWord_of_encode rfl⟩, fun s => ?_⟩
  exact ⟨rfl, rfl, rfl, (acknowledgeResync s).ctl.evt, acknowledgeResync_evt_bit s, rfl⟩

/-! ### `EVT_CLR` -/

/-- The encoder puts the mask at bits 2:1 of `B` (40_control_commands.md R134). -/
theorem evtClr_operand : ∀ mask : BitVec 2, (0#29 ++ mask ++ 0#1 : BitVec 32) = BitVec.ofNat 32 (2 * mask.toNat) := by
  decide

theorem clearEvents_evt_bits (mask : BitVec 2) (s : State) :
    (clearEvents mask s).ctl.evt.getLsbD 0 = s.ctl.evt.getLsbD 0
      ∧ (clearEvents mask s).ctl.evt.getLsbD 1 = (s.ctl.evt.getLsbD 1 && !mask.getLsbD 0)
      ∧ (clearEvents mask s).ctl.evt.getLsbD 2 = (s.ctl.evt.getLsbD 2 && !mask.getLsbD 1) := by
  have hkept : ∀ m : BitVec 2, (~~~(m ++ 0#1 : BitVec 3)).getLsbD 1 = !m.getLsbD 0
      ∧ (~~~(m ++ 0#1 : BitVec 3)).getLsbD 2 = !m.getLsbD 1 := by decide
  obtain ⟨hv, ha⟩ := hkept mask
  exact ⟨clearEvents_resyncReq mask s, by rw [clearEvents_ctl_evt, BitVec.getLsbD_and, hv],
    by rw [clearEvents_ctl_evt, BitVec.getLsbD_and, ha]⟩

/-- Settles O19: the witness is `EVT` as `clearEvents` leaves it, and `RB` is its value. -/
theorem eventClearMasksTheOverflowBits : Obligations.EventClearMasksTheOverflowBits := by
  unfold Obligations.EventClearMasksTheOverflowBits
  intro mask s
  obtain ⟨hreq, hv, ha⟩ := clearEvents_evt_bits mask s
  refine ⟨hasWord_of_encode (congrArg (commandWord 0x04 0) (evtClr_operand mask)),
    (clearEvents mask s).ctl.evt, hreq, hv, ha, ?_⟩
  rw [BitVec.ofNat_toNat]
  rfl

/-! ### `CFG_WR` -/

theorem exec_cfgWr_of_none {reg : BitVec 8} (val : BitVec 32) (s : State) (h : (regOfIndex reg).bind legalRange = none) :
    exec (.cfgWr reg val) s = .next (settled 0x11 0 0 s) := by
  cases hreg : regOfIndex reg with
  | none => simp only [exec, execCfgWr, hreg]; rfl
  | some r =>
    have hr : legalRange r = none := by rwa [hreg] at h
    simp only [exec, execCfgWr, hreg, hr]
    rfl

section
variable {reg : BitVec 8} {r : Reg} {lo hi : Nat} {val : BitVec 32}

theorem exec_cfgWr_of_illegal (s : State) (hreg : regOfIndex reg = some r) (hr : legalRange r = some (lo, hi))
    (hval : ¬ (lo ≤ val.toNat ∧ val.toNat ≤ hi)) : exec (.cfgWr reg val) s = .next (settled 0x12 0 0 s) := by
  simp only [exec, execCfgWr, hreg, hr, if_neg hval]
  rfl

theorem exec_cfgWr_of_legal (s : State) (hreg : regOfIndex reg = some r) (hr : legalRange r = some (lo, hi))
    (hval : lo ≤ val.toNat ∧ val.toNat ≤ hi) :
    exec (.cfgWr reg val) s = .next (settled 0x00 0 0 (writeReg s r val)) := by
  simp only [exec, execCfgWr, hreg, hr, if_pos hval]
  rfl

end

/-! ### The indices of R22 -/

/-- Whatever the state, the table lists the indices of the register map. -/
theorem registerTable_indices (s : State) : (registerTable s).map Prod.fst = regMap.map Prod.fst := rfl

theorem regOfIndex_eq_none_of_registerTable {reg : BitVec 8} {s : State} (h : ∀ r ∈ registerTable s, r.1 ≠ reg.toNat) :
    regOfIndex reg = none := by
  refine regOfIndex_eq_none reg fun x hx heq => ?_
  have hmem : reg.toNat ∈ (registerTable s).map Prod.fst := by
    rw [registerTable_indices, ← heq]
    exact List.mem_map_of_mem hx
  obtain ⟨y, hy, hidx⟩ := List.mem_map.mp hmem
  exact h y hy hidx

/-- `legalRange` has no entry for a register of access `RO`. -/
theorem legalRange_of_mem_roIndices :
    ∀ n ∈ roIndices, (regOfIndex (BitVec.ofNat 8 n)).bind legalRange = none := by
  decide

/-- `legalRange` has the table's bounds for a register of access `RW`. -/
theorem legalRange_of_mem_rwTable :
    ∀ x ∈ rwTable, (regOfIndex (BitVec.ofNat 8 x.1)).bind legalRange = some x.2 := by
  decide

theorem exists_reg_of_mem_rwTable {reg : BitVec 8} {lo hi : Nat} (h : (reg.toNat, lo, hi) ∈ rwTable) :
    ∃ r, regOfIndex reg = some r ∧ legalRange r = some (lo, hi) := by
  have hrange := legalRange_of_mem_rwTable _ h
  rw [BitVec.ofNat_toNat, BitVec.setWidth_eq] at hrange
  exact Option.bind_eq_some_iff.mp hrange

theorem mem_regMap_of_regOfIndex : ∀ index : BitVec 8, ∀ r ∈ regOfIndex index, (index.toNat, r) ∈ regMap := by
  decide +kernel

theorem regMap_registers_nodup : (regMap.map Prod.snd).Nodup := by decide

/-- Two indices do not name one register. -/
theorem regOfIndex_inj {p q : BitVec 8} {r : Reg} (hp : regOfIndex p = some r) (hq : regOfIndex q = some r) : p = q := by
  have hpair := List.inj_on_of_nodup_map regMap_registers_nodup (mem_regMap_of_regOfIndex p r hp)
    (mem_regMap_of_regOfIndex q r hq) rfl
  exact BitVec.eq_of_toNat_eq (congrArg Prod.fst hpair)

/-! ### What `CFG_RD` shows of a register write -/

theorem configRead_of_none {reg : BitVec 8} (s : State) (h : regOfIndex reg = none) : configRead reg s = none := by
  rw [configRead, exec_cfgRd_of_none s h]
  rfl

/-- A value that fits a register's width comes back from it whole (40_control_commands.md R131 (a)). -/
theorem setWidth_setWidth_of_lt {n : Nat} {v : BitVec 32} (h : v.toNat < 2 ^ n) : (v.setWidth n).setWidth 32 = v := by
  refine BitVec.eq_of_toNat_eq ?_
  rw [BitVec.toNat_setWidth, BitVec.toNat_setWidth, Nat.mod_eq_of_lt h, Nat.mod_eq_of_lt v.isLt]

/-- Each register is wide enough for its greatest legal value. -/
theorem readReg_writeReg_same (s : State) {r : Reg} {lo hi : Nat} {v : BitVec 32} (hr : legalRange r = some (lo, hi))
    (hv : v.toNat ≤ hi) : readReg (writeReg s r v) r = v := by
  cases r <;> cases hr
  case auThreshLo => rfl
  all_goals exact setWidth_setWidth_of_lt (lt_of_le_of_lt hv (by decide))

theorem configRead_writeReg_ne {reg q : BitVec 8} {r : Reg} (s : State) (v : BitVec 32) (hreg : regOfIndex reg = some r)
    (hq : q ≠ reg) : configRead q (writeReg s r v) = configRead q s := by
  cases hother : regOfIndex q with
  | none => rw [configRead_of_none _ hother, configRead_of_none _ hother]
  | some r' =>
    have hne : r' ≠ r := by
      rintro rfl
      exact hq (regOfIndex_inj hother hreg)
    rw [configRead_of_some _ hother, configRead_of_some _ hother, readReg_writeReg_ne s r r' v hne]

/-- Settles O17: `RO` and unassigned indices have no legal range; a value outside the range is refused; a value within it is
written by `writeReg`, whose effect the lemmas above say. -/
theorem configWriteFollowsTheMap : Obligations.ConfigWriteFollowsTheMap := by
  unfold Obligations.ConfigWriteFollowsTheMap
  intro reg val s
  refine ⟨hasWord_of_encode rfl, fun hno => exec_cfgWr_of_none val s ?_, fun lo hi hmem => ?_⟩
  · obtain hro | hunassigned := hno
    · have hrange := legalRange_of_mem_roIndices _ hro
      rwa [BitVec.ofNat_toNat, BitVec.setWidth_eq] at hrange
    · rw [regOfIndex_eq_none_of_registerTable hunassigned]
      rfl
  · obtain ⟨r, hreg, hr⟩ := exists_reg_of_mem_rwTable hmem
    refine ⟨fun hout => exec_cfgWr_of_illegal s hreg hr (by omega), fun hlo hhi => ?_⟩
    obtain ⟨hbuffers, hrsp, hdraws, _, _⟩ := writeReg_frame s r val
    refine ⟨writeReg s r val, exec_cfgWr_of_legal s hreg hr ⟨hlo, hhi⟩, ?_, fun q hq => ?_, hbuffers, hrsp, hdraws⟩
    · rw [configRead_of_some _ hreg, readReg_writeReg_same s hr hhi]
    · exact configRead_writeReg_ne s val hreg hq

end Sys2Proof.Proofs

/-! Proofs, part 15: the symbols are a field with primitive element `α` (O40). -/

namespace Sys2Proof.Proofs

open Sys2Proof Sys2Proof.Machine Sys2Proof.Safety

-- One theorem after the other: side by side, they ask for more threads than the memory limit allows.
set_option Elab.async false

/-! ### The field (41_rs_fec.md R150 to R152) -/

theorem gpow_one (a : Sym) : gpow a 1 = a := by rw [gpow, gpow, gmul_comm, gmul_one]

theorem gpow_add (a : Sym) (m n : Nat) : gpow a (m + n) = gmul (gpow a m) (gpow a n) := by
  induction n with
  | zero => exact (gmul_one _).symm
  | succ n ih => rw [← Nat.add_assoc, gpow, ih, gmul_assoc, gpow]

def square (a : Sym) : Sym := gmul a a

/-- Squaring is additive: the mixed terms cancel. -/
theorem additive_square : SymAdditive square := fun a b => by
  rw [square, gmul_gadd_left, gmul_gadd_right, gmul_gadd_right, gmul_comm b a, ← gadd_assoc, gadd_assoc (gmul a a), gadd_self,
    gadd_zero]
  rfl

theorem additive_square_iterate (k : Nat) : SymAdditive square^[k] := by
  induction k with
  | zero => exact fun _ _ => rfl
  | succ k ih => exact ih.comp additive_square

theorem gpow_two_pow (a : Sym) (k : Nat) : gpow a (2 ^ k) = square^[k] a := by
  induction k with
  | zero => exact gpow_one a
  | succ k ih => rw [pow_succ, Nat.mul_two, gpow_add, ih, Function.iterate_succ_apply', square]

/-- Squaring eight times is additive and fixes the powers of `x`, so it fixes every symbol. -/
theorem gpow_256 (a : Sym) : gpow a 256 = a :=
  (gpow_two_pow a 8).trans ((additive_square_iterate 8).ext (g := id) (fun _ _ => rfl) (by decide +kernel) a)

theorem eq_zero_or_one_of_idempotent : ∀ a : Sym, gmul a a = a → a = 0 ∨ a = 1 := by decide +kernel

/-- The 255th power is idempotent, and not 0. -/
theorem gpow_255 {a : Sym} (ha : a ≠ 0) : gpow a 255 = 1 := by
  refine (eq_zero_or_one_of_idempotent _ ?_).resolve_left fun hzero => ha ?_
  · rw [← gpow_add, show 255 + 255 = 256 + 254 from rfl, gpow_add, gpow_256, gmul_comm]
    rfl
  · rw [← gpow_256 a, gpow, hzero, zero_gmul]

theorem ginv_eq_gpow (a : Sym) : ginv a = gpow a 254 := by
  have hsquare : gmul a a = gpow a 2 := by rw [gpow, gpow_one]
  simp only [ginv, hsquare, ← gpow_add, Nat.reduceAdd]

theorem gmul_ginv (a : Sym) (ha : a ≠ 0) : gmul a (ginv a) = 1 := by
  rw [ginv_eq_gpow, gmul_comm]
  exact gpow_255 ha

theorem ginv_zero : ginv 0 = 0 := by
  rw [ginv_eq_gpow, gpow, gmul_zero]

/-- The model's operations, as one of Mathlib's fields. -/
@[reducible] def symField : Field Sym :=
  @Field.ofMinimalAxioms Sym ⟨gadd⟩ ⟨gmul⟩ ⟨id⟩ ⟨ginv⟩ ⟨0⟩ ⟨1⟩
    gadd_assoc zero_gadd gadd_self gmul_assoc gmul_comm (fun a => (gmul_comm 1 a).trans (gmul_one a)) gmul_ginv ginv_zero
    gmul_gadd_right ⟨0, 1, by decide⟩

/-- `φ` reads each symbol as an element of the field `F`, and the model's operations as those of `F`. -/
structure ReadsSymbols {F : Type} [Field F] (φ : Sym → F) : Prop where
  bijective : Function.Bijective φ
  map_gadd : ∀ a b, φ (gadd a b) = φ a + φ b
  map_gmul : ∀ a b, φ (gmul a b) = φ a * φ b

theorem exists_readsSymbols : ∃ (F : Type) (_ : Field F) (φ : Sym → F), ReadsSymbols φ :=
  ⟨Sym, symField, id, @ReadsSymbols.mk Sym symField id Function.bijective_id (fun _ _ => rfl) (fun _ _ => rfl)⟩

/-- The powers of `α` at the largest proper divisors of 255, two of them taken in two stages. -/
theorem alpha_powers_in_stages : gpow (gpow alpha 17) 5 ≠ 1 ∧ gpow (gpow alpha 17) 3 ≠ 1 ∧ gpow alpha 15 ≠ 1 := by
  decide +kernel

namespace ReadsSymbols

variable {F : Type} [Field F] {φ : Sym → F} (hφ : ReadsSymbols φ)

include hφ

theorem injective : Function.Injective φ := hφ.bijective.1

theorem map_zero : φ 0 = 0 := by
  have h := hφ.map_gadd 0 0
  rw [gadd_self] at h
  exact left_eq_add.mp h

theorem map_eq_zero_iff {a : Sym} : φ a = 0 ↔ a = 0 := by
  rw [← hφ.map_zero]
  exact hφ.injective.eq_iff

theorem map_one : φ 1 = 1 := by
  have h := hφ.map_gmul 1 1
  rw [gmul_one] at h
  exact (mul_eq_left₀ (mt hφ.map_eq_zero_iff.mp (by decide))).mp h.symm

/-- The field has characteristic 2. -/
theorem add_self (x : F) : x + x = 0 := by
  obtain ⟨a, rfl⟩ := hφ.bijective.2 x
  rw [← hφ.map_gadd, gadd_self, hφ.map_zero]

theorem neg_eq (x : F) : -x = x := neg_eq_of_add_eq_zero_left (hφ.add_self x)

theorem map_ginv (a : Sym) : φ (ginv a) = (φ a)⁻¹ := by
  by_cases ha : a = 0
  · rw [ha, ginv_zero, hφ.map_zero, inv_zero]
  · refine eq_inv_of_mul_eq_one_right ?_
    rw [← hφ.map_gmul, gmul_ginv a ha, hφ.map_one]

theorem map_gpow (a : Sym) (e : Nat) : φ (gpow a e) = φ a ^ e := by
  induction e with
  | zero => exact hφ.map_one.trans (pow_zero _).symm
  | succ e ih => rw [gpow, hφ.map_gmul, ih, pow_succ]

/-! ### The primitive element -/

theorem orderOf_alpha : orderOf (φ alpha) = 255 := by
  obtain ⟨h85, h51, h15⟩ := alpha_powers_in_stages
  have hstages : ∀ d e, φ (gpow (gpow alpha d) e) = φ alpha ^ (d * e) := fun d e => by
    rw [hφ.map_gpow, hφ.map_gpow, pow_mul]
  have hne : ∀ {a : Sym} {e : Nat}, φ a = φ alpha ^ e → a ≠ 1 → φ alpha ^ e ≠ 1 := fun h ha hpow =>
    ha (hφ.injective (h.trans (hpow.trans hφ.map_one.symm)))
  refine orderOf_eq_of_pow_and_pow_div_prime (by norm_num) ?_ fun q hq hdvd => ?_
  · rw [← hφ.map_gpow, gpow_255 (by decide), hφ.map_one]
  · have hmem : q ∈ Nat.primeFactorsList 255 := (Nat.mem_primeFactorsList (by norm_num)).mpr ⟨hq, hdvd⟩
    rw [show Nat.primeFactorsList 255 = [3, 5, 17] by simp] at hmem
    simp only [List.mem_cons, List.not_mem_nil, or_false] at hmem
    obtain rfl | rfl | rfl := hmem
    · exact hne (hstages 17 5) h85
    · exact hne (hstages 17 3) h51
    · exact hne (hφ.map_gpow alpha 15) h15

theorem map_alphaPow (e : Nat) : φ (alphaPow e) = φ alpha ^ e := by
  rw [alphaPow, hφ.map_gpow, ← hφ.orderOf_alpha, pow_mod_orderOf]

end ReadsSymbols

theorem card_sym : Fintype.card Sym = 256 :=
  (Fintype.card_congr (BitVec.equivFin (m := 8)).toEquiv).trans (Fintype.card_fin _)

theorem gpow_alpha_injOn {e e' : Nat} (he : e < 255) (he' : e' < 255) (h : gpow alpha e = gpow alpha e') : e = e' := by
  obtain ⟨F, _, φ, hφ⟩ := exists_readsSymbols
  have hpow : φ alpha ^ e = φ alpha ^ e' := by rw [← hφ.map_gpow, h, hφ.map_gpow]
  exact pow_injOn_Iio_orderOf (by simpa [hφ.orderOf_alpha]) (by simpa [hφ.orderOf_alpha]) hpow

theorem gpow_alpha_ne_zero (e : Nat) : gpow alpha e ≠ 0 := by
  obtain ⟨F, _, φ, hφ⟩ := exists_readsSymbols
  refine mt hφ.map_eq_zero_iff.mpr ?_
  rw [hφ.map_gpow]
  exact pow_ne_zero _ (mt hφ.map_eq_zero_iff.mp (by decide))

/-- The 255 different powers are all 255 non-zero symbols. -/
theorem exists_gpow_alpha_eq {a : Sym} (ha : a ≠ 0) : ∃ e < 255, gpow alpha e = a := by
  have himage : (Finset.range 255).image (gpow alpha) = Finset.univ.erase 0 := by
    refine Finset.eq_of_subset_of_card_le (fun b hb => ?_) ?_
    · obtain ⟨e, -, rfl⟩ := Finset.mem_image.mp hb
      exact Finset.mem_erase.mpr ⟨gpow_alpha_ne_zero e, Finset.mem_univ _⟩
    · rw [Finset.card_image_of_injOn fun e he e' he' h => gpow_alpha_injOn (by simpa using he) (by simpa using he') h,
        Finset.card_erase_of_mem (Finset.mem_univ _), Finset.card_univ, card_sym, Finset.card_range]
  obtain ⟨e, he, h⟩ := Finset.mem_image.mp (himage.symm ▸ Finset.mem_erase.mpr ⟨ha, Finset.mem_univ a⟩)
  exact ⟨e, by simpa using he, h⟩

theorem gmul_eq_one_iff {a b : Sym} (ha : a ≠ 0) : gmul a b = 1 ↔ b = ginv a := by
  constructor
  · intro h
    rw [← gmul_one (ginv a), ← h, ← gmul_assoc, gmul_comm (ginv a), gmul_ginv a ha, gmul_comm, gmul_one]
  · rintro rfl
    exact gmul_ginv a ha

theorem ginv_alphaPow {e : Nat} (he : e < 255) : ginv (alphaPow e) = alphaPow (255 - e) := by
  obtain ⟨F, _, φ, hφ⟩ := exists_readsSymbols
  refine hφ.injective ?_
  rw [hφ.map_ginv, hφ.map_alphaPow, hφ.map_alphaPow]
  refine inv_eq_of_mul_eq_one_right ?_
  rw [← pow_add, Nat.add_sub_cancel' he.le, ← hφ.orderOf_alpha, pow_orderOf_eq_one]

/-- Settles O40, from the laws of part 4 and the order of `α` in the field. -/
theorem symbolFieldLaws : Obligations.SymbolFieldLaws := by
  unfold Obligations.SymbolFieldLaws
  refine ⟨fun a b c => ⟨gmul_comm a b, gmul_assoc a b c, gmul_gadd_right a b c, gmul_zero a, gmul_one a⟩,
    by decide +kernel, fun a b ha => gmul_eq_one_iff ha, gpow_255 (by decide), fun a ha => ?_, fun e he => ginv_alphaPow he⟩
  obtain ⟨e, he, rfl⟩ := exists_gpow_alpha_eq ha
  exact ⟨e, ⟨he, rfl⟩, fun e' ⟨he', h⟩ => gpow_alpha_injOn he' he h⟩

end Sys2Proof.Proofs

/-! Proofs, part 16: the parity count and the depth check (O41, O50). -/

namespace Sys2Proof.Proofs

open Sys2Proof Sys2Proof.Machine Sys2Proof.Safety

-- One theorem after the other: side by side, they ask for more threads than the memory limit allows.
set_option Elab.async false

/-! ### Rounding up (00_scope.md R12) -/

/-- `cdiv a b` is the least `q` with `a ≤ b * q`. -/
theorem cdiv_le_iff {a b q : Nat} (hb : 0 < b) : cdiv a b ≤ q ↔ a ≤ b * q := by
  rw [cdiv, ← Nat.lt_succ_iff, Nat.div_lt_iff_lt_mul hb, Nat.succ_mul, Nat.mul_comm q b]
  omega

/-- `oddup p` is the least odd number that is at least `p`. -/
theorem oddup_le {p q : Nat} (hq : q % 2 = 1) (h : p ≤ q) : oddup p ≤ q := by
  unfold oddup
  split_ifs <;> omega

/-! ### The parity count (41_rs_fec.md R156) -/

theorem mul_le_parityCount (rpct k : Nat) : k * rpct ≤ 100 * parityCount rpct k :=
  (cdiv_le_iff (by norm_num)).mp (oddup_spec _).2.1

theorem parityCount_le {rpct k q : Nat} (hq : q % 2 = 1) (h : k * rpct ≤ 100 * q) : parityCount rpct k ≤ q :=
  oddup_le hq ((cdiv_le_iff (by norm_num)).mpr h)

theorem parityCount_mono {rpct k k' : Nat} (h : k ≤ k') : parityCount rpct k ≤ parityCount rpct k' :=
  parityCount_le (parityCount_odd rpct k') ((Nat.mul_le_mul_right rpct h).trans (mul_le_parityCount rpct k'))

/-- The block length grows with the data, so that one value and its successor fix where it passes 255. -/
theorem legal_iff_le {rpct m : Nat} (hm : m + parityCount rpct m ≤ 255) (hm' : 255 < m + 1 + parityCount rpct (m + 1))
    (k : Nat) : k + parityCount rpct k ≤ 255 ↔ k ≤ m := by
  constructor
  · intro h
    by_contra hk
    have := parityCount_mono (rpct := rpct) (show m + 1 ≤ k by omega)
    omega
  · intro h
    have := parityCount_mono (rpct := rpct) h
    omega

/-- The tables of R156: ratio, `KMAX`, `P(KMAX)`. -/
def kmaxTable : List (Nat × Nat × Nat) :=
  [(25, 204, 51), (26, 202, 53), (27, 200, 55), (28, 198, 57), (29, 196, 57), (30, 196, 59), (31, 194, 61),
    (32, 192, 63), (33, 190, 63), (34, 190, 65), (35, 188, 67), (36, 186, 67), (37, 186, 69), (38, 184, 71), (39, 182, 71),
    (40, 182, 73), (41, 180, 75), (42, 178, 75), (43, 178, 77), (44, 176, 79), (45, 175, 79), (46, 174, 81), (47, 172, 81),
    (48, 172, 83), (49, 170, 85), (50, 170, 85)]

theorem kmaxTable_values : ∀ r ∈ kmaxTable,
    parityCount r.1 r.2.1 = r.2.2 ∧ r.2.1 + r.2.2 ≤ 255 ∧ 255 < r.2.1 + 1 + parityCount r.1 (r.2.1 + 1) := by
  decide

/-- Settles O41. -/
theorem parityCountIsTheLeastOddCover : Obligations.ParityCountIsTheLeastOddCover := by
  unfold Obligations.ParityCountIsTheLeastOddCover
  refine ⟨fun rpct k => ⟨parityCount_odd rpct k, mul_le_parityCount rpct k, fun q => parityCount_le⟩,
    fun rpct k k' => parityCount_mono, fun r hr => ?_⟩
  obtain ⟨hp, hfit, hnext⟩ := kmaxTable_values r hr
  exact ⟨hp, legal_iff_le (hp ▸ hfit) hnext⟩

/-! ### The depth check (41_rs_fec.md R171) -/

/-- With a quarter of redundancy a block is at most five times its parity symbols. -/
theorem block_le_five_mul_parityCount {rpct : Nat} (hr : 25 ≤ rpct) (k : Nat) :
    k + parityCount rpct k ≤ 5 * parityCount rpct k := by
  have hcover := mul_le_parityCount rpct k
  have hquarter : k * 25 ≤ k * rpct := Nat.mul_le_mul_left k hr
  omega

/-- Settles O50: at depth 4 a ratio of 25 and 16 data symbols, 5 parity symbols, give a slice of 6. -/
theorem depthFiveIsTheLeastThatAlwaysPasses : Obligations.DepthFiveIsTheLeastThatAlwaysPasses := by
  unfold Obligations.DepthFiveIsTheLeastThatAlwaysPasses
  refine ⟨fun rpct k d hr hd => ?_, 25, 16, by decide⟩
  rw [cdiv_le_iff (by omega)]
  exact (block_le_five_mul_parityCount hr k).trans (Nat.mul_le_mul_right _ hd)

end Sys2Proof.Proofs

/-! Proofs, part 17: the encoder is systematic and linear (O42, O43). -/

namespace Sys2Proof.Proofs

open Sys2Proof Sys2Proof.Machine Sys2Proof.Safety

-- One theorem after the other: side by side, they ask for more threads than the memory limit allows.
set_option Elab.async false

/-- Settles O42: the parity symbols follow the data, and part 4 shows the whole a codeword. -/
theorem encoderGivesTheSystematicCodeword : Obligations.EncoderGivesTheSystematicCodeword := by
  unfold Obligations.EncoderGivesTheSystematicCodeword
  intro p d hp
  exact ⟨paritySymbols p d, rfl, paritySymbols_length p d hp, (isCodeword_iff p _).mp (isCodeword_encodeBlock hp d)⟩

/-! ### Sums of lists of symbols -/

theorem polyScale_gadd (a b : Sym) (f : List Sym) :
    polyScale (gadd a b) f = List.zipWith gadd (polyScale a f) (polyScale b f) := by
  induction f with
  | nil => rfl
  | cons x f ih => exact congrArg₂ List.cons (gmul_gadd_left a b x) ih

/-- The sums of two pairs of lists may be taken in either order. -/
theorem zipWith_gadd_comm4 (a : List Sym) : ∀ b c d : List Sym,
    List.zipWith gadd (List.zipWith gadd a b) (List.zipWith gadd c d)
      = List.zipWith gadd (List.zipWith gadd a c) (List.zipWith gadd b d) := by
  induction a with
  | nil => simp
  | cons x a ih =>
    intro b c d
    cases b <;> cases c <;> cases d <;> simp [gadd_gadd_gadd_comm, ih]

/-! ### The shift register (41_rs_fec.md R157) -/

/-- One step on the sums of two registers and of two data symbols. -/
theorem lfsrStep_gadd (gTail : List Sym) {reg reg' : List Sym} (h : reg.length = reg'.length) (x y : Sym) :
    lfsrStep gTail (List.zipWith gadd reg reg') (gadd x y)
      = List.zipWith gadd (lfsrStep gTail reg x) (lfsrStep gTail reg' y) := by
  have hhead : (List.zipWith gadd reg reg').headD 0 = gadd (reg.headD 0) (reg'.headD 0) := by
    cases reg <;> cases reg' <;> simp_all
  have htail : (List.zipWith gadd reg reg').tail ++ [0] = List.zipWith gadd (reg.tail ++ [0]) (reg'.tail ++ [0]) := by
    rw [List.zipWith_append (by simp [h]), List.tail_zipWith]
    rfl
  simp only [lfsrStep]
  rw [hhead, htail, gadd_gadd_gadd_comm, polyScale_gadd, zipWith_gadd_comm4]

theorem foldl_lfsrStep_gadd {gTail : List Sym} (d : List Sym) :
    ∀ d' reg reg' : List Sym, d.length = d'.length → reg.length = gTail.length → reg'.length = gTail.length →
      (List.zipWith gadd d d').foldl (lfsrStep gTail) (List.zipWith gadd reg reg')
        = List.zipWith gadd (d.foldl (lfsrStep gTail) reg) (d'.foldl (lfsrStep gTail) reg') := by
  induction d with
  | nil => intro d' reg reg' h _ _; cases List.length_eq_zero_iff.mp h.symm; rfl
  | cons x d ih =>
    intro d' reg reg' h hreg hreg'
    obtain _ | ⟨y, d'⟩ := d'
    · cases h
    · have hstep : ∀ (reg : List Sym) z, reg.length = gTail.length → (lfsrStep gTail reg z).length = gTail.length :=
        fun reg z hlen => by simp [lfsrStep, hlen]; omega
      simp only [List.zipWith_cons_cons, List.foldl_cons]
      rw [lfsrStep_gadd gTail (hreg.trans hreg'.symm)]
      exact ih d' _ _ (Nat.succ.inj h) (hstep _ _ hreg) (hstep _ _ hreg')

/-- Settles O43: each step of the shift register is linear. -/
theorem encoderIsLinear : Obligations.EncoderIsLinear := by
  unfold Obligations.EncoderIsLinear
  intro p d d' h
  have hzero : List.zipWith gadd (List.replicate p 0) (List.replicate p 0) = List.replicate p 0 := by simp
  have hparity : paritySymbols p (List.zipWith gadd d d') = List.zipWith gadd (paritySymbols p d) (paritySymbols p d') := by
    have hfold := foldl_lfsrStep_gadd (gTail := (genPoly p).tail) d d' (List.replicate p 0) (List.replicate p 0) h
      (by simp) (by simp)
    rwa [hzero] at hfold
  rw [encodeBlock, hparity, ← List.zipWith_append h]
  rfl

end Sys2Proof.Proofs

/-! Proofs, part 18: the interleaving permutation (O49). -/

namespace Sys2Proof.Proofs

open Sys2Proof Sys2Proof.Machine Sys2Proof.Safety

-- One theorem after the other: side by side, they ask for more threads than the memory limit allows.
set_option Elab.async false

/-! ### Slices (41_rs_fec.md R170) -/

theorem sliceLen_eq_count {n d f : Nat} (hf : f < d) :
    sliceLen n d f = ((List.range n).filter fun j => j % d == f).length := by
  have hcount := Nat.count_modEq_card n (by omega : 0 < d) f
  rw [sliceLen_eq hf, ← List.countP_eq_length_filter]
  rw [Nat.mod_eq_of_lt hf, Nat.count] at hcount
  rw [← hcount]
  refine List.countP_congr fun j _ => ?_
  simp [Nat.ModEq, Nat.mod_eq_of_lt hf]

/-- A position of slice `f` has its row below the slice's length. -/
theorem div_lt_sliceLen {n d j : Nat} (hd : 0 < d) (hj : j < n) : j / d < sliceLen n d (j % d) := by
  have hj' := Nat.div_add_mod j d
  rw [sliceLen, ← not_le, cdiv_le_iff hd]
  omega

theorem sliceOff_mono (n d : Nat) {f f' : Nat} (h : f ≤ f') : sliceOff n d f ≤ sliceOff n d f' :=
  monotone_nat_of_le_succ (fun f => by rw [sliceOff_succ]; omega) h

/-! ### The order of the block -/

/-- Every position of a slice comes before the next slice begins. -/
theorem sigma_lt_sigma_of_mod_lt {n d j j' : Nat} (hd : 0 < d) (hj : j < n) (h : j % d < j' % d) :
    sigma n d j < sigma n d j' :=
  calc sigma n d j < sliceOff n d (j % d + 1) := by
        rw [sigma, sliceOff_succ]
        exact Nat.add_lt_add_left (div_lt_sliceLen hd hj) _
    _ ≤ sliceOff n d (j' % d) := sliceOff_mono n d h
    _ ≤ sigma n d j' := Nat.le_add_right _ _

theorem sigma_lt_sigma_of_mod_eq {n d j j' : Nat} (h : j % d = j' % d) (hlt : j < j') :
    sigma n d j < sigma n d j' := by
  have hj := Nat.div_add_mod j d
  have hj' := Nat.div_add_mod j' d
  rw [sigma, sigma, h, Nat.add_lt_add_iff_left]
  exact Nat.lt_of_mul_lt_mul_left (a := d) (by omega)

/-- `sigma` orders the block by slice and then by position. -/
theorem sigma_lt_sigma_iff {n d j j' : Nat} (hd : 0 < d) (hj : j < n) (hj' : j' < n) :
    sigma n d j < sigma n d j' ↔ j % d < j' % d ∨ (j % d = j' % d ∧ j < j') := by
  constructor
  · intro h
    obtain hlt | heq | hgt := lt_trichotomy (j % d) (j' % d)
    · exact .inl hlt
    · refine .inr ⟨heq, not_le.mp fun hle => ?_⟩
      obtain rfl | hlt := hle.eq_or_lt
      · omega
      · have := sigma_lt_sigma_of_mod_eq (n := n) heq.symm hlt
        omega
    · have := sigma_lt_sigma_of_mod_lt hd hj' hgt
      omega
  · rintro (hlt | ⟨heq, hlt⟩)
    · exact sigma_lt_sigma_of_mod_lt hd hj hlt
    · exact sigma_lt_sigma_of_mod_eq heq hlt

theorem sigma_inj {n d j j' : Nat} (hd : 0 < d) (hj : j < n) (hj' : j' < n) (h : sigma n d j = sigma n d j') : j = j' := by
  have hlt := sigma_lt_sigma_iff hd hj hj'
  have hgt := sigma_lt_sigma_iff hd hj' hj
  omega

/-- An injection of the block's positions into themselves reaches each of them. -/
theorem exists_sigma_eq {n d i : Nat} (hd : 0 < d) (hi : i < n) : ∃ j < n, sigma n d j = i := by
  have hinj : Set.InjOn (sigma n d) (Finset.range n) := fun j hj j' hj' h =>
    sigma_inj hd (by simpa using hj) (by simpa using hj') h
  have hmaps : Set.MapsTo (sigma n d) (Finset.range n) (Finset.range n) := fun j hj => by
    simpa using sigma_lt hd (by simpa using hj)
  obtain ⟨j, hj, h⟩ := Finset.surjOn_of_injOn_of_card_le _ hmaps hinj le_rfl (Finset.mem_coe.mpr (Finset.mem_range.mpr hi))
  exact ⟨j, by simpa using hj, h⟩

/-- Settles O49. -/
theorem interleavingOrdersBySlice : Obligations.InterleavingOrdersBySlice := by
  unfold Obligations.InterleavingOrdersBySlice
  intro n d hd
  exact ⟨fun f hf => sliceLen_eq_count hf, fun j hj => sigma_lt hd hj, fun i hi => exists_sigma_eq hd hi,
    fun j hj j' hj' => sigma_lt_sigma_iff hd hj hj'⟩

end Sys2Proof.Proofs

/-! Proofs, part 19: the commands on the codeword buffer, case by case (O20, O21, O22, O23). -/

namespace Sys2Proof.Proofs

open Sys2Proof Sys2Proof.Machine Sys2Proof.Safety

-- One theorem after the other: side by side, they ask for more threads than the memory limit allows.
set_option Elab.async false

/-! ### Reading and writing the buffer -/

theorem storedOne_write {w : Nat} (m : Mem w) (i : Nat) (v : BitVec w) : storedOne m (Mem.write m i v) i v :=
  ⟨Mem.get?_write_self m i v, fun a ha => Mem.get?_write_ne m i a v ha⟩

theorem storedRun_writeList {w : Nat} (m : Mem w) (base : Nat) (vs : List (BitVec w)) :
    storedRun m (Mem.writeList m base vs) base vs :=
  ⟨Mem.get?_writeList_inside vs m base, Mem.get?_writeList_outside vs m base⟩

theorem get?_writeList_zero {w : Nat} (m : Mem w) (vs : List (BitVec w)) {j : Nat} (hj : j < vs.length) :
    Mem.get? (Mem.writeList m 0 vs) j = vs[j]? := by
  simpa using Mem.get?_writeList_inside vs m 0 j hj

/-- A valid cell reads as what the memory holds (20_memory.md R71, R79). -/
theorem get?_of_blockWritten {s : State} (hw : blockWritten s) {i : Nat} (hi : i < cwBound s) :
    Mem.get? s.rsu.cw i = some (readCw s i) ∧ Mem.get? s.rsu.era i = some (readEra s i) := by
  obtain ⟨hcw, hera⟩ := hw i hi
  obtain ⟨v, hv⟩ := Option.isSome_iff_exists.mp hcw
  obtain ⟨e, he⟩ := Option.isSome_iff_exists.mp hera
  exact ⟨hv.trans (congrArg some (readCell_of_get? _ _ _ _ _ hv).symm),
    he.trans (congrArg some (readCell_of_get? _ _ _ _ _ he).symm)⟩

theorem cwBound_eq {s : State} {n : Nat} (hn : n ≤ 255) (hlen : s.rsu.cwLen.toNat = n) : cwBound s = n := by
  rw [cwBound, hlen]
  exact min_eq_left hn

theorem cwSymbols_getElem? (s : State) {n j : Nat} (hj : j < n) : (cwSymbols s n)[j]? = some (readCw s j) := by
  simp [cwSymbols, hj]

/-- A mark as a Boolean and back. -/
theorem ofBool_getLsbD_zero : ∀ e : BitVec 1, BitVec.ofBool (e.getLsbD 0) = e := by decide

theorem eraMarks_getElem? (s : State) {n j : Nat} (hj : j < n) :
    ((eraMarks s n)[j]?).map BitVec.ofBool = some (readEra s j) := by
  simpa [eraMarks, hj] using ofBool_getLsbD_zero (readEra s j)

/-! ### `CW_PUSH` (41_rs_fec.md R161) -/

/-- The operand bits of `CW_PUSH` as one number. -/
theorem cwPush_operand (sym : BitVec 8) (era : BitVec 1) :
    (0#15 ++ era ++ sym : BitVec 24) = BitVec.ofNat 24 (sym.toNat + 256 * era.toNat) := by
  refine BitVec.eq_of_toNat_eq ?_
  rw [toNat_append_eq, toNat_append_eq, BitVec.toNat_ofNat, BitVec.toNat_ofNat]
  omega

/-- Settles O20: the three cases are the branches of the command's rule. -/
theorem pushAppendsOneSymbol : Obligations.PushAppendsOneSymbol := by
  unfold Obligations.PushAppendsOneSymbol
  intro sym era s
  refine ⟨hasWord_of_encode (congrArg (commandWord 0x11 · 0) (cwPush_operand sym era)), fun hilv => ?_, fun hilv hlen => ?_,
    fun hilv hlen => ⟨_, _, storedOne_write _ _ sym, storedOne_write _ _ era, ?_⟩⟩
  · rw [exec, execCwPush, if_pos hilv]
    rfl
  · rw [exec, execCwPush, if_neg (by simp [hilv]), if_pos (show Config.nCwMax ≤ _ from hlen)]
    rfl
  · rw [exec, execCwPush, if_neg (by simp [hilv]), if_neg (show ¬ Config.nCwMax ≤ _ from not_le.mpr hlen)]
    rfl

/-! ### `CW_RD` (41_rs_fec.md R162) -/

theorem exec_cwRd_of_le {idx : BitVec 8} {s : State} (h : min s.rsu.cwLen.toNat 255 ≤ idx.toNat) :
    exec (.cwRd idx) s = .next (settled 0x11 0 0 s) := by
  rw [exec, execCwRd, if_pos (show cwBound s ≤ _ from h)]
  rfl

theorem exec_cwRd_of_lt {idx : BitVec 8} {s : State} (h : idx.toNat < cwBound s) :
    exec (.cwRd idx) s = .next (settled 0x00 0 ((readEra s idx.toNat ++ readCw s idx.toNat).setWidth 32) s) := by
  rw [exec, execCwRd, if_neg (not_le.mpr h)]
  rfl

/-- `RB[8]` is the mark and `RB[7:0]` the symbol. -/
theorem cwRd_result (mark : BitVec 1) (sym : BitVec 8) :
    (mark ++ sym).setWidth 32 = BitVec.ofNat 32 (sym.toNat + 256 * mark.toNat) := by
  refine BitVec.eq_of_toNat_eq ?_
  rw [BitVec.toNat_setWidth, toNat_append_eq, BitVec.toNat_ofNat]
  omega

/-- Settles O21. -/
theorem codewordReadGivesSymbolAndMark : Obligations.CodewordReadGivesSymbolAndMark := by
  unfold Obligations.CodewordReadGivesSymbolAndMark
  intro idx s hw
  refine ⟨hasWord_of_encode rfl, exec_cwRd_of_le, fun hlt => ?_⟩
  obtain ⟨hcw, hera⟩ := get?_of_blockWritten hw hlt
  exact ⟨_, _, hcw, hera, by rw [← cwRd_result, exec_cwRd_of_lt hlt]⟩

/-! ### The count check of a whole block (41_rs_fec.md R166, R172, R173) -/

section

variable {k : BitVec 8} {s : State}

theorem wrongCount_iff :
    wrongCount s k = true ↔ k = 0 ∨ 255 < k.toNat + parityOf s k ∨ s.rsu.cwLen.toNat ≠ k.toNat + parityOf s k := by
  simp only [wrongCount, Bool.or_eq_true, beq_iff_eq, decide_eq_true_eq, bne_iff_ne, or_assoc]
  rfl

theorem wrongCount_of_right (hk : k ≠ 0) (hfit : k.toNat + parityOf s k ≤ 255)
    (hlen : s.rsu.cwLen.toNat = k.toNat + parityOf s k) : wrongCount s k = false := by
  rw [Bool.eq_false_iff, ne_eq, wrongCount_iff]
  exact not_or.mpr ⟨hk, not_or.mpr ⟨not_lt.mpr hfit, not_not.mpr hlen⟩⟩

/-! ### `RS_ENC` (41_rs_fec.md R163) -/

/-- What `RS_ENC k` leaves in the unit. -/
def encodedRsu (s : State) (k : BitVec 8) : RsuState :=
  { s.rsu with
    cw := Mem.writeList s.rsu.cw k.toNat (paritySymbols (parityOf s k) (cwSymbols s k.toNat))
    era := Mem.writeList s.rsu.era 0 (List.replicate (k.toNat + parityOf s k) 0)
    cwLen := BitVec.ofNat 9 (k.toNat + parityOf s k), cwOk := true, lastP := BitVec.ofNat 8 (parityOf s k), lastK := k }

theorem exec_rsEnc_of_ilv (h : s.rsu.ilv = true) : exec (.rsEnc k) s = .next (settled 0x12 0 0 s) := by
  rw [exec, execRsEnc, if_pos h]
  rfl

theorem exec_rsEnc_of_wrong (h : s.rsu.ilv = false)
    (hbad : k = 0 ∨ 255 < k.toNat + parityOf s k ∨ s.rsu.cwLen.toNat ≠ k.toNat) :
    exec (.rsEnc k) s = .next (settled 0x01 0 0 (discardBlock s)) := by
  rw [exec, execRsEnc, if_neg (by simp [h]), if_pos (show k = 0 ∨ Config.nCwMax < _ ∨ _ from hbad)]
  rfl

theorem exec_rsEnc_of_right (h : s.rsu.ilv = false)
    (hgood : ¬ (k = 0 ∨ 255 < k.toNat + parityOf s k ∨ s.rsu.cwLen.toNat ≠ k.toNat)) :
    exec (.rsEnc k) s = .next (settled 0x00 (BitVec.ofNat 24 (parityOf s k)) (BitVec.ofNat 32 (k.toNat + parityOf s k))
      { s with rsu := encodedRsu s k }) := by
  rw [exec, execRsEnc, if_neg (by simp [h]), if_neg (show ¬ (k = 0 ∨ Config.nCwMax < _ ∨ _) from hgood)]
  rfl

/-! ### `RS_DEC` (41_rs_fec.md R166) -/

/-- The unit with `RS_LAST` naming the block of `k` data symbols. -/
def namedRsu (s : State) (k : BitVec 8) : RsuState := { s.rsu with lastP := BitVec.ofNat 8 (parityOf s k), lastK := k }

/-- What `RS_DEC k` decodes. -/
def decodedBlock (s : State) (k : BitVec 8) : Option (List Sym × Nat) :=
  decodeBlock (parityOf s k) (cwSymbols s (k.toNat + parityOf s k)) (eraMarks s (k.toNat + parityOf s k))

/-- What `RS_DEC k` leaves in the unit with the decoder's answer `c` and its error count `e`. -/
def decodedRsu (s : State) (k : BitVec 8) (c : List Sym) (e : Nat) : RsuState :=
  { namedRsu s k with
    cw := Mem.writeList s.rsu.cw 0 c
    era := Mem.writeList s.rsu.era 0 (List.replicate (k.toNat + parityOf s k) 0)
    cwOk := true, errCnt := BitVec.ofNat 8 e
    eraCnt := BitVec.ofNat 8 (erasureCount (eraMarks s (k.toNat + parityOf s k))) }

theorem exec_rsDec_of_ilv (h : s.rsu.ilv = true) : exec (.rsDec k) s = .next (settled 0x12 0 0 s) := by
  rw [exec, execRsDec, if_pos h]
  rfl

theorem exec_rsDec_of_wrong (h : s.rsu.ilv = false) (hbad : wrongCount s k = true) :
    exec (.rsDec k) s = .next (settled 0x01 0 0 (discardBlock s)) := by
  rw [exec, execRsDec, if_neg (by simp [h]), if_pos hbad]
  rfl

theorem exec_rsDec_of_none (h : s.rsu.ilv = false) (hgood : wrongCount s k = false) (hd : decodedBlock s k = none) :
    exec (.rsDec k) s = .next (settled 0x02 0 0 (discardBlock { s with rsu := namedRsu s k })) := by
  unfold decodedBlock at hd
  rw [exec, execRsDec, if_neg (by simp [h]), if_neg (by simp [hgood])]
  simp only [hd]
  rfl

theorem exec_rsDec_of_some (h : s.rsu.ilv = false) (hgood : wrongCount s k = false) {c : List Sym} {e : Nat}
    (hd : decodedBlock s k = some (c, e)) :
    exec (.rsDec k) s = .next (settled 0x00 (BitVec.ofNat 24 e)
      (BitVec.ofNat 32 (erasureCount (eraMarks s (k.toNat + parityOf s k)))) { s with rsu := decodedRsu s k c e }) := by
  unfold decodedBlock at hd
  have hmarks : (List.replicate (k.toNat + parityOf s k) false).map BitVec.ofBool
      = List.replicate (k.toNat + parityOf s k) 0 := List.map_replicate
  rw [exec, execRsDec, if_neg (by simp [h]), if_neg (by simp [hgood]), decodedRsu, ← hmarks]
  simp only [hd]
  rfl

end

/-- Settles O22: the data symbols are what the buffer holds. -/
theorem encodeAppendsTheParitySymbols : Obligations.EncodeAppendsTheParitySymbols := by
  unfold Obligations.EncodeAppendsTheParitySymbols
  intro k s hw p n
  refine ⟨hasWord_of_encode rfl, exec_rsEnc_of_ilv, exec_rsEnc_of_wrong, fun hilv hk hfit hlen => ?_⟩
  have hbound : cwBound s = k.toNat := cwBound_eq (Nat.le_of_lt_succ k.isLt) hlen
  refine ⟨cwSymbols s k.toNat, _, _, cwSymbols_length s k.toNat, fun j hj => ?_, storedRun_writeList _ _ _,
    storedRun_writeList _ _ _, exec_rsEnc_of_right hilv ?_⟩
  · rw [cwSymbols_getElem? s hj]
    exact (get?_of_blockWritten hw (hbound ▸ hj)).1
  · exact not_or.mpr ⟨hk, not_or.mpr ⟨not_lt.mpr hfit, not_not.mpr hlen⟩⟩

/-- Settles O23: the received word and its marks are what the buffer holds. -/
theorem decodeCorrectsTheBlockInPlace : Obligations.DecodeCorrectsTheBlockInPlace := by
  unfold Obligations.DecodeCorrectsTheBlockInPlace
  intro k s hw p n
  refine ⟨hasWord_of_encode rfl, exec_rsDec_of_ilv, fun hilv hbad => exec_rsDec_of_wrong hilv (wrongCount_iff.mpr hbad),
    fun hilv hk hfit hlen => ?_⟩
  have hgood : wrongCount s k = false := wrongCount_of_right hk hfit hlen
  have hbound : cwBound s = n := cwBound_eq hfit hlen
  refine ⟨cwSymbols s n, eraMarks s n, cwSymbols_length s n, eraMarks_length s n, fun j hj => ?_,
    exec_rsDec_of_none hilv hgood, fun c e hd => ?_⟩
  · rw [cwSymbols_getElem? s hj, eraMarks_getElem? s hj]
    exact get?_of_blockWritten hw (hbound ▸ hj)
  · exact ⟨_, _, storedRun_writeList _ _ _, storedRun_writeList _ _ _, exec_rsDec_of_some hilv hgood hd⟩

end Sys2Proof.Proofs

/-! Proofs, part 20: the interleaving commands (O24, O25, O51) and what failures publish (O52). -/

namespace Sys2Proof.Proofs

open Sys2Proof Sys2Proof.Machine Sys2Proof.Safety

-- One theorem after the other: side by side, they ask for more threads than the memory limit allows.
set_option Elab.async false

/-! ### The writes of `ILV_SPLIT` (41_rs_fec.md R172) -/

section

variable {n d : Nat} (s : State)

/-- The unit after the first `m` writes. -/
def splitPrefix (n d m : Nat) (s : State) : RsuState := (List.range m).foldl (splitPlace n d s) s.rsu

theorem splitPrefix_succ (n d m : Nat) : splitPrefix n d (m + 1) s = splitPlace n d s (splitPrefix n d m s) m := by
  simp [splitPrefix, List.range_succ]

/-- A position of which no symbol has been placed is as before. -/
theorem get?_splitPrefix_of_ne {m a : Nat} (ha : ∀ j < m, a ≠ sigma n d j) :
    Mem.get? (splitPrefix n d m s).cw a = Mem.get? s.rsu.cw a
      ∧ Mem.get? (splitPrefix n d m s).era a = Mem.get? s.rsu.era a := by
  induction m with
  | zero => exact ⟨rfl, rfl⟩
  | succ m ih =>
    obtain ⟨hcw, hera⟩ := ih fun j hj => ha j (by omega)
    have hne := ha m (by omega)
    rw [splitPrefix_succ]
    exact ⟨(Mem.get?_write_ne _ _ _ _ hne).trans hcw, (Mem.get?_write_ne _ _ _ _ hne).trans hera⟩

/-- A position takes the symbol and the mark that are placed there; the later ones go elsewhere. -/
theorem get?_splitPrefix_sigma (hd : 0 < d) {m : Nat} (hm : m ≤ n) {j : Nat} (hj : j < m) :
    Mem.get? (splitPrefix n d m s).cw (sigma n d j) = some (readCw s j)
      ∧ Mem.get? (splitPrefix n d m s).era (sigma n d j) = some (readEra s j) := by
  induction m with
  | zero => omega
  | succ m ih =>
    rw [splitPrefix_succ]
    obtain rfl | hlt := (Nat.lt_succ_iff.mp hj).eq_or_lt
    · exact ⟨Mem.get?_write_self _ _ _, Mem.get?_write_self _ _ _⟩
    · obtain ⟨hcw, hera⟩ := ih (by omega) hlt
      have hne : sigma n d j ≠ sigma n d m := fun h => hlt.ne (sigma_inj hd (by omega) (by omega) h)
      exact ⟨(Mem.get?_write_ne _ _ _ _ hne).trans hcw, (Mem.get?_write_ne _ _ _ _ hne).trans hera⟩

/-- The writes touch nothing of the unit but the two memories. -/
theorem splitBlock_rsu_eq (n d : Nat) :
    (splitBlock n d s).rsu = { s.rsu with cw := (splitBlock n d s).rsu.cw, era := (splitBlock n d s).rsu.era } :=
  splitBlock_keeps (P := fun r => r = { s.rsu with cw := r.cw, era := r.era }) (fun r j _ hr => by rw [hr]; rfl) rfl

end

/-! ### The commands, case by case -/

section

variable {k : BitVec 8} {lost : BitVec 16} {s : State}

theorem exec_ilvSplit_of_ilv (h : s.rsu.ilv = true) : exec (.ilvSplit k) s = .next (settled 0x12 0 0 s) := by
  rw [exec, execIlvSplit, if_pos h]
  rfl

theorem exec_ilvSplit_of_wrong (h : s.rsu.ilv = false) (hbad : wrongCount s k = true) :
    exec (.ilvSplit k) s = .next (settled 0x01 0 0 (discardBlock s)) := by
  rw [exec, execIlvSplit, if_neg (by simp [h]), if_pos hbad]
  rfl

theorem exec_ilvSplit_of_shallow (h : s.rsu.ilv = false) (hgood : wrongCount s k = false)
    (hdepth : parityOf s k < cdiv (k.toNat + parityOf s k) s.rsu.ilvD.toNat) :
    exec (.ilvSplit k) s = .next (settled 0x12 0 0 s) := by
  rw [exec, execIlvSplit, if_neg (by simp [h]), if_neg (by simp [hgood]), if_pos hdepth]
  rfl

theorem exec_ilvSplit_of_deep (h : s.rsu.ilv = false) (hgood : wrongCount s k = false)
    (hdepth : cdiv (k.toNat + parityOf s k) s.rsu.ilvD.toNat ≤ parityOf s k) :
    exec (.ilvSplit k) s = .next (settled 0x00 (BitVec.ofNat 24 s.rsu.ilvD.toNat)
      (BitVec.ofNat 32 (cdiv (k.toNat + parityOf s k) s.rsu.ilvD.toNat))
      { s with rsu := { s.rsu with
          cw := (splitBlock (k.toNat + parityOf s k) s.rsu.ilvD.toNat s).rsu.cw
          era := (splitBlock (k.toNat + parityOf s k) s.rsu.ilvD.toNat s).rsu.era
          ilv := true, cwOk := false } }) := by
  rw [exec, execIlvSplit, if_neg (by simp [h]), if_neg (by simp [hgood]), if_neg (not_lt.mpr hdepth)]
  change Host.Outcome.next (settled 0x00 _ _
    { s with rsu := { (splitBlock (k.toNat + parityOf s k) s.rsu.ilvD.toNat s).rsu with ilv := true, cwOk := false } }) = _
  rw [splitBlock_rsu_eq]

/-- `MalformedBlock` of `ILV_MERGE` clears `ILV` too (41_rs_fec.md R173). -/
theorem exec_ilvMerge_of_wrong (hbad : wrongCount s k = true) : exec (.ilvMerge k lost) s
    = .next (settled 0x01 0 0 { s with rsu := { s.rsu with cwLen := 0, cwOk := false, ilv := false } }) := by
  rw [exec, execIlvMerge, if_pos hbad]
  rfl

/-- A lost bit at or above the depth (41_rs_fec.md R173). -/
theorem ushiftRight_ne_zero_iff (d : Nat) : lost >>> d ≠ 0 ↔ 2 ^ d ≤ lost.toNat := by
  rw [ne_eq, ← BitVec.toNat_inj, BitVec.toNat_ushiftRight, Nat.shiftRight_eq_div_pow]
  change ¬ lost.toNat / 2 ^ d = 0 ↔ _
  rw [Nat.div_eq_zero_iff]
  have := Nat.two_pow_pos d
  omega

theorem exec_ilvMerge_of_refused (hgood : wrongCount s k = false)
    (hbad : parityOf s k < cdiv (k.toNat + parityOf s k) s.rsu.ilvD.toNat ∨ 2 ^ s.rsu.ilvD.toNat ≤ lost.toNat) :
    exec (.ilvMerge k lost) s = .next (settled 0x12 0 0 s) := by
  rw [← ushiftRight_ne_zero_iff] at hbad
  rw [exec, execIlvMerge, if_neg (by simp [hgood]), if_pos hbad]
  rfl

theorem exec_ilvMerge_of_merged (hgood : wrongCount s k = false)
    (hdepth : cdiv (k.toNat + parityOf s k) s.rsu.ilvD.toNat ≤ parityOf s k) (hlost : lost.toNat < 2 ^ s.rsu.ilvD.toNat) :
    exec (.ilvMerge k lost) s = .next (settled 0x00 0
      (BitVec.ofNat 32 (erasureCount (mergedMarks (k.toNat + parityOf s k) s.rsu.ilvD.toNat lost s)))
      { s with rsu := { s.rsu with
          cw := Mem.writeList s.rsu.cw 0 ((List.range (k.toNat + parityOf s k)).map fun j =>
            readCw s (sigma (k.toNat + parityOf s k) s.rsu.ilvD.toNat j))
          era := Mem.writeList s.rsu.era 0
            ((mergedMarks (k.toNat + parityOf s k) s.rsu.ilvD.toNat lost s).map BitVec.ofBool)
          ilv := false, cwOk := false } }) := by
  have hgo : ¬ (parityOf s k < cdiv (k.toNat + parityOf s k) s.rsu.ilvD.toNat ∨ lost >>> s.rsu.ilvD.toNat ≠ 0) := by
    rw [ushiftRight_ne_zero_iff]
    omega
  rw [exec, execIlvMerge, if_neg (by simp [hgood]), if_neg hgo]
  rfl

end

/-- Settles O24: what each position takes is said by the lemmas about the writes. -/
theorem splitPermutesIntoSlices : Obligations.SplitPermutesIntoSlices := by
  unfold Obligations.SplitPermutesIntoSlices
  intro k s hw hreg p n d
  obtain ⟨-, -, hd, -⟩ := hreg
  refine ⟨hasWord_of_encode rfl, exec_ilvSplit_of_ilv,
    fun hilv hbad => exec_ilvSplit_of_wrong hilv (wrongCount_iff.mpr hbad),
    fun hilv hk hfit hlen => exec_ilvSplit_of_shallow hilv (wrongCount_of_right hk hfit hlen),
    fun hilv hk hfit hlen hdepth => ?_⟩
  have hbound : cwBound s = n := cwBound_eq hfit hlen
  refine ⟨_, _, fun j hj => ?_, fun a ha => ?_, exec_ilvSplit_of_deep hilv (wrongCount_of_right hk hfit hlen) hdepth⟩
  · obtain ⟨hcw, hera⟩ := get?_of_blockWritten hw (hbound.symm ▸ hj)
    rw [hcw, hera]
    exact get?_splitPrefix_sigma s (by omega) le_rfl hj
  · exact get?_splitPrefix_of_ne s fun j hj => ((sigma_lt (by omega) hj).trans_le ha).ne'

/-! ### The marks of `ILV_MERGE` -/

theorem ofBool_or : ∀ (e : BitVec 1) (b : Bool), BitVec.ofBool (e.getLsbD 0 || b) = e ||| BitVec.ofBool b := by decide

theorem mergedMarks_getElem? {n d j : Nat} (lost : BitVec 16) (s : State) (hj : j < n) :
    ((mergedMarks n d lost s).map BitVec.ofBool)[j]?
      = some (readEra s (sigma n d j) ||| BitVec.ofBool (lost.getLsbD (j % d))) := by
  simpa [mergedMarks, hj] using ofBool_or (readEra s (sigma n d j)) (lost.getLsbD (j % d))

/-- Marks counted in the list and in the memory they are stored in. -/
theorem erasureCount_eq_stored (m : Mem 1) (marks : List Bool) :
    erasureCount marks = ((List.range marks.length).filter fun j =>
      Mem.get? (Mem.writeList m 0 (marks.map BitVec.ofBool)) j == some 1).length := by
  have hmap : marks = (List.range marks.length).map fun j => marks.getD j false :=
    List.ext_getElem (by simp) fun j hj _ => by simp [hj]
  have hstored : ∀ j ∈ List.range marks.length,
      (Mem.get? (Mem.writeList m 0 (marks.map BitVec.ofBool)) j == some 1) = marks.getD j false := by
    intro j hj
    rw [List.mem_range] at hj
    rw [get?_writeList_zero m _ (by simpa using hj)]
    cases h : marks[j] <;> simp [hj, h]
  rw [List.filter_congr hstored, erasureCount]
  conv_lhs => rw [hmap]
  rw [List.filter_map, List.length_map]
  rfl

/-- Settles O25: the block is stored as one run from index 0. -/
theorem mergePermutesBackAndMarksLostSlices : Obligations.MergePermutesBackAndMarksLostSlices := by
  unfold Obligations.MergePermutesBackAndMarksLostSlices
  intro k lost s hw hreg p n d
  obtain ⟨-, -, hd, -⟩ := hreg
  refine ⟨hasWord_of_encode rfl, fun hbad => exec_ilvMerge_of_wrong (wrongCount_iff.mpr hbad),
    fun hk hfit hlen => exec_ilvMerge_of_refused (wrongCount_of_right hk hfit hlen), fun hk hfit hlen hdepth hlost => ?_⟩
  have hbound : cwBound s = n := cwBound_eq hfit hlen
  have hlenMarks : (mergedMarks n d lost s).length = n := by simp [mergedMarks]
  refine ⟨Mem.writeList s.rsu.cw 0 ((List.range n).map fun j => readCw s (sigma n d j)),
    Mem.writeList s.rsu.era 0 ((mergedMarks n d lost s).map BitVec.ofBool), fun j hj => ?_, fun a ha => ?_, ?_⟩
  · obtain ⟨hcw, hera⟩ := get?_of_blockWritten hw ((sigma_lt (show 0 < d by omega) hj).trans_eq hbound.symm)
    rw [get?_writeList_zero _ _ (by simpa using hj), get?_writeList_zero _ _ (by simpa [hlenMarks] using hj), hcw, hera,
      mergedMarks_getElem? lost s hj]
    simp [hj]
  · exact ⟨Mem.get?_writeList_outside _ _ _ _ (.inr (by simpa using ha)),
      Mem.get?_writeList_outside _ _ _ _ (.inr (by simpa [hlenMarks] using ha))⟩
  · have hcount := erasureCount_eq_stored s.rsu.era (mergedMarks n d lost s)
    rw [hlenMarks] at hcount
    rw [← hcount]
    exact exec_ilvMerge_of_merged (wrongCount_of_right hk hfit hlen) hdepth hlost

/-! ### Split and merge -/

/-- A command that ended with `OK` did not end with another code. -/
theorem exec_ne_of_ok {i : Instr} {s t u : State} {code : BitVec 8} {ra : BitVec 24} {rb : BitVec 32}
    (h : exec i s = .next t) (hok : t.ctl.status = 0) (hcode : code ≠ 0) : exec i s ≠ .next (settled code ra rb u) := by
  intro hexec
  cases h.symm.trans hexec
  exact hcode hok

/-- `ILV_SPLIT` ends with `OK` only where all its checks pass. -/
theorem ilvSplit_ok {k : BitVec 8} {s t : State} (h : exec (.ilvSplit k) s = .next t) (hok : t.ctl.status = 0) :
    s.rsu.ilv = false ∧ (k ≠ 0 ∧ k.toNat + parityOf s k ≤ 255 ∧ s.rsu.cwLen.toNat = k.toNat + parityOf s k)
      ∧ cdiv (k.toNat + parityOf s k) s.rsu.ilvD.toNat ≤ parityOf s k := by
  have hilv : s.rsu.ilv = false := by
    by_contra hne
    exact exec_ne_of_ok h hok (by decide) (exec_ilvSplit_of_ilv (Bool.eq_true_of_not_eq_false hne))
  have hgood : wrongCount s k = false := by
    by_contra hne
    exact exec_ne_of_ok h hok (by decide) (exec_ilvSplit_of_wrong hilv (Bool.eq_true_of_not_eq_false hne))
  have hdepth : cdiv (k.toNat + parityOf s k) s.rsu.ilvD.toNat ≤ parityOf s k := by
    by_contra hlt
    exact exec_ne_of_ok h hok (by decide) (exec_ilvSplit_of_shallow hilv hgood (not_le.mp hlt))
  rw [Bool.eq_false_iff, ne_eq, wrongCount_iff] at hgood
  simp only [not_or, not_lt, not_not] at hgood
  exact ⟨hilv, hgood, hdepth⟩

/-- Settles O51: by O24 and O25 the merge reads each position where the split put it. -/
theorem splitThenMergeRestoresTheBuffer : Obligations.SplitThenMergeRestoresTheBuffer := by
  unfold Obligations.SplitThenMergeRestoresTheBuffer
  intro k s t hw hreg h hok
  obtain ⟨hilv, ⟨hk, hfit, hlen⟩, hdepth⟩ := ilvSplit_ok h hok
  have hd : 0 < s.rsu.ilvD.toNat := by have := hreg.2.2.1; omega
  obtain ⟨-, -, -, -, hsplit⟩ := splitPermutesIntoSlices k s hw hreg
  obtain ⟨cw, era, hin, hout, hexec⟩ := hsplit hilv hk hfit hlen hdepth
  cases h.symm.trans hexec
  have hwritten : blockWritten (settled 0x00 (BitVec.ofNat 24 s.rsu.ilvD.toNat)
      (BitVec.ofNat 32 (cdiv (k.toNat + parityOf s k) s.rsu.ilvD.toNat))
      { s with rsu := { s.rsu with cw := cw, era := era, ilv := true, cwOk := false } }) := by
    intro i hi
    have hbound : cwBound s = k.toNat + parityOf s k := cwBound_eq hfit hlen
    obtain ⟨j, hj, rfl⟩ := exists_sigma_eq hd (hbound ▸ hi : i < k.toNat + parityOf s k)
    obtain ⟨hcw, hera⟩ := hin j hj
    change (Mem.get? cw _).isSome = true ∧ (Mem.get? era _).isSome = true
    exact hcw ▸ hera ▸ hw j (hbound.symm ▸ hj)
  obtain ⟨-, -, -, hmerge⟩ := mergePermutesBackAndMarksLostSlices k 0 _ hwritten hreg
  obtain ⟨cw', era', hin', hout', hexec'⟩ := hmerge hk hfit hlen hdepth (Nat.two_pow_pos _)
  refine ⟨_, hexec', rfl, rfl, rfl, fun a => ?_⟩
  change Mem.get? cw' a = _ ∧ Mem.get? era' a = _
  by_cases ha : a < k.toNat + parityOf s k
  · obtain ⟨hcw, hera⟩ := hin a ha
    obtain ⟨hcw', hera'⟩ := hin' a ha
    exact ⟨hcw'.trans hcw, hera'.trans ((congrArg (Option.map _) hera).trans (by simp))⟩
  · obtain ⟨hcw, hera⟩ := hout a (not_lt.mp ha)
    obtain ⟨hcw', hera'⟩ := hout' a (not_lt.mp ha)
    exact ⟨hcw'.trans hcw, hera'.trans hera⟩

/-! ### Failed blocks (41_rs_fec.md R166, 60_exceptions.md R323) -/

/-- A command on a block leaves an empty buffer where it ends with `MalformedBlock` or `UncorrectableErrors`. -/
def EmptyIfFailed (t : State) : Prop :=
  t.ctl.status = 0x01 ∨ t.ctl.status = 0x02 → t.rsu.cwLen = 0 ∧ t.rsu.cwOk = false

theorem emptyIfFailed_of_code {code : BitVec 8} {ra : BitVec 24} {rb : BitVec 32} {u : State}
    (hcode : code ≠ 0x01 ∧ code ≠ 0x02) : EmptyIfFailed (settled code ra rb u) := by
  rintro (h | h)
  · exact absurd h hcode.1
  · exact absurd h hcode.2

theorem emptyIfFailed_of_discarded {code : BitVec 8} {ra : BitVec 24} {rb : BitVec 32} {u : State} (hlen : u.rsu.cwLen = 0)
    (hok : u.rsu.cwOk = false) : EmptyIfFailed (settled code ra rb u) := fun _ => ⟨hlen, hok⟩

section

variable {k : BitVec 8} {s t : State}

theorem rsEnc_emptyIfFailed (h : exec (.rsEnc k) s = .next t) : EmptyIfFailed t := by
  cases hilv : s.rsu.ilv with
  | true =>
    cases h.symm.trans (exec_rsEnc_of_ilv hilv)
    exact emptyIfFailed_of_code (by decide)
  | false =>
    by_cases hbad : k = 0 ∨ 255 < k.toNat + parityOf s k ∨ s.rsu.cwLen.toNat ≠ k.toNat
    · cases h.symm.trans (exec_rsEnc_of_wrong hilv hbad)
      exact emptyIfFailed_of_discarded rfl rfl
    · cases h.symm.trans (exec_rsEnc_of_right hilv hbad)
      exact emptyIfFailed_of_code (by decide)

theorem rsDec_emptyIfFailed (h : exec (.rsDec k) s = .next t) : EmptyIfFailed t := by
  cases hilv : s.rsu.ilv with
  | true =>
    cases h.symm.trans (exec_rsDec_of_ilv hilv)
    exact emptyIfFailed_of_code (by decide)
  | false =>
    cases hcount : wrongCount s k with
    | true =>
      cases h.symm.trans (exec_rsDec_of_wrong hilv hcount)
      exact emptyIfFailed_of_discarded rfl rfl
    | false =>
      cases hd : decodedBlock s k with
      | none =>
        cases h.symm.trans (exec_rsDec_of_none hilv hcount hd)
        exact emptyIfFailed_of_discarded rfl rfl
      | some answer =>
        cases h.symm.trans (exec_rsDec_of_some hilv hcount hd)
        exact emptyIfFailed_of_code (by decide)

theorem ilvSplit_emptyIfFailed (h : exec (.ilvSplit k) s = .next t) : EmptyIfFailed t := by
  cases hilv : s.rsu.ilv with
  | true =>
    cases h.symm.trans (exec_ilvSplit_of_ilv hilv)
    exact emptyIfFailed_of_code (by decide)
  | false =>
    cases hcount : wrongCount s k with
    | true =>
      cases h.symm.trans (exec_ilvSplit_of_wrong hilv hcount)
      exact emptyIfFailed_of_discarded rfl rfl
    | false =>
      obtain hdepth | hdepth := le_or_gt (cdiv (k.toNat + parityOf s k) s.rsu.ilvD.toNat) (parityOf s k)
      · cases h.symm.trans (exec_ilvSplit_of_deep hilv hcount hdepth)
        exact emptyIfFailed_of_code (by decide)
      · cases h.symm.trans (exec_ilvSplit_of_shallow hilv hcount hdepth)
        exact emptyIfFailed_of_code (by decide)

theorem ilvMerge_emptyIfFailed {lost : BitVec 16} (h : exec (.ilvMerge k lost) s = .next t) : EmptyIfFailed t := by
  cases hcount : wrongCount s k with
  | true =>
    cases h.symm.trans (exec_ilvMerge_of_wrong hcount)
    exact emptyIfFailed_of_discarded rfl rfl
  | false =>
    by_cases hbad : parityOf s k < cdiv (k.toNat + parityOf s k) s.rsu.ilvD.toNat ∨ 2 ^ s.rsu.ilvD.toNat ≤ lost.toNat
    · cases h.symm.trans (exec_ilvMerge_of_refused hcount hbad)
      exact emptyIfFailed_of_code (by decide)
    · simp only [not_or, not_lt, not_le] at hbad
      cases h.symm.trans (exec_ilvMerge_of_merged hcount hbad.1 hbad.2)
      exact emptyIfFailed_of_code (by decide)

end

/-! ### Failed frames (42_frame_marker.md R215) -/

/-- `t` is `s` after `FR_PARSE` failed in the stage `st`, or after it published a frame. -/
def ParseEnds (s t : State) : Prop := (∃ st, Ends (enterStage st s) t) ∨ t.ctl.status = 0

theorem stageHeader_parseEnds (g : Geom) (s : State) : ParseEnds s (stageHeader g s) := by
  simp only [stageHeader, stageChecksum, stagePayload]
  split_ifs
  · exact .inl ⟨.validatingChecksum, ends_raise _ _ _ _⟩
  · exact .inl ⟨.extractingPayload, ends_raise _ _ _ _⟩
  · exact .inr rfl

theorem frParse_fails {s t : State} (h : exec .frParse s = .next t) (hfail : t.ctl.status ≠ 0) :
    ∃ ps rc sc, Ends { s with fmu := { s.fmu with parseState := ps, frRcnt := rc, frScore := sc } } t := by
  simp only [exec, execFrParse, stageFinder, Host.Outcome.next.injEq] at h
  subst h
  split_ifs at hfail ⊢
  · exact ⟨_, _, _, ends_raise _ _ _ _⟩
  · exact ⟨_, _, _, ends_raise _ _ _ _⟩
  · exact ⟨_, _, _, ends_raise _ _ _ _⟩
  · obtain ⟨st, hends⟩ | hok := stageHeader_parseEnds (geom s) (recordScore (geom s) (enterStage .detectingFinder s))
    · exact ⟨_, _, _, hends⟩
    · exact absurd hok hfail

/-- Settles O52. -/
theorem failuresPublishNothing : Obligations.FailuresPublishNothing := by
  unfold Obligations.FailuresPublishNothing
  constructor
  · intro i k s t hi h hfail
    have hempty : EmptyIfFailed t := by
      obtain rfl | rfl | rfl | ⟨lost, rfl⟩ := hi
      · exact rsEnc_emptyIfFailed h
      · exact rsDec_emptyIfFailed h
      · exact ilvSplit_emptyIfFailed h
      · exact ilvMerge_emptyIfFailed h
    obtain ⟨hlen, hok⟩ := hempty hfail
    exact ⟨hlen, hok, fun idx => exec_cwRd_of_le (by simp [hlen])⟩
  · intro s t h hfail
    obtain ⟨ps, rc, sc, st, ra, rb, rfl⟩ := frParse_fails h hfail
    exact ⟨codeOf st, ra, rb, ps, rc, sc, respond_eq_settled st ra rb _⟩

end Sys2Proof.Proofs

/-! Proofs, part 21: the code is maximum-distance-separable (O44), and what that says of the decoder's answers (O45, O47). -/

namespace Sys2Proof.Proofs

open Sys2Proof Sys2Proof.Machine Sys2Proof.Safety

-- One theorem after the other: side by side, they ask for more threads than the memory limit allows.
set_option Elab.async false

/-! ### Power sums -/

section

variable {F : Type} [Field F] {ι : Type} {J : Finset ι} {x y : ι → F} {p : Nat}

/-- Power sums that vanish below `p` vanish for every polynomial of degree below `p`. -/
theorem sum_mul_eval_eq_zero (h : ∀ i < p, ∑ j ∈ J, y j * x j ^ i = 0) {q : Polynomial F} (hq : q.natDegree < p) :
    ∑ j ∈ J, y j * q.eval (x j) = 0 := by
  have hterm : ∀ j ∈ J, y j * q.eval (x j) = ∑ i ∈ Finset.range p, q.coeff i * (y j * x j ^ i) := fun j _ => by
    rw [Polynomial.eval_eq_sum_range' hq, Finset.mul_sum]
    exact Finset.sum_congr rfl fun i _ => mul_left_comm _ _ _
  rw [Finset.sum_congr rfl hterm, Finset.sum_comm]
  refine Finset.sum_eq_zero fun i hi => ?_
  rw [← Finset.mul_sum, h i (Finset.mem_range.mp hi), mul_zero]

/-- At most `p` terms with different bases are determined by their power sums below `p`: the polynomial that vanishes at all
bases but one isolates that term. -/
theorem eq_zero_of_powerSums [DecidableEq ι] (hx : Set.InjOn x J) (hJ : J.card ≤ p)
    (h : ∀ i < p, ∑ j ∈ J, y j * x j ^ i = 0) : ∀ j ∈ J, y j = 0 := by
  intro j hj
  have hdeg : (Lagrange.nodal (J.erase j) x).natDegree < p := by
    rw [Lagrange.natDegree_nodal, Finset.card_erase_of_mem hj]
    have := Finset.card_pos.mpr ⟨j, hj⟩
    omega
  have hother : ∀ k ∈ J, k ≠ j → y k * (Lagrange.nodal (J.erase j) x).eval (x k) = 0 := fun k hk hne => by
    rw [Lagrange.eval_nodal_at_node (Finset.mem_erase.mpr ⟨hne, hk⟩), mul_zero]
  have hself : (Lagrange.nodal (J.erase j) x).eval (x j) ≠ 0 := Lagrange.eval_nodal_not_at_node fun k hk heq =>
    Finset.ne_of_mem_erase hk (hx (Finset.mem_of_mem_erase hk) hj heq.symm)
  have hsum := sum_mul_eval_eq_zero h hdeg
  rw [Finset.sum_eq_single_of_mem j hj hother] at hsum
  exact (mul_eq_zero.mp hsum).resolve_right hself

/-- The power sums below `p`, as a linear map. -/
def powerSumMap (J : Finset ι) (x : ι → F) (p : Nat) : (J → F) →ₗ[F] (Fin p → F) where
  toFun z i := ∑ j : J, z j * x j ^ (i : Nat)
  map_add' z w := funext fun i => by simp [add_mul, Finset.sum_add_distrib]
  map_smul' a z := funext fun i => by simp [Finset.mul_sum, mul_assoc]

theorem powerSumMap_surjective [DecidableEq ι] (hx : Set.InjOn x J) (hJ : J.card = p) :
    Function.Surjective (powerSumMap J x p) := by
  refine (LinearMap.injective_iff_surjective_of_finrank_eq_finrank (by simp [hJ])).mp ?_
  refine (injective_iff_map_eq_zero _).mpr fun z hz => funext fun j => ?_
  exact eq_zero_of_powerSums (J := Finset.univ) (x := fun j : J => x j) (fun j _ k _ h => Subtype.ext (hx j.2 k.2 h))
    (by simp [hJ]) (fun i hi => congrFun hz ⟨i, hi⟩) j (Finset.mem_univ j)

/-- Any `p` values are the power sums of `p` terms with given different bases. -/
theorem exists_powerSums [DecidableEq ι] (hx : Set.InjOn x J) (hJ : J.card = p) (b : Nat → F) :
    ∃ y : ι → F, ∀ i < p, ∑ j ∈ J, y j * x j ^ i = b i := by
  obtain ⟨z, hz⟩ := powerSumMap_surjective hx hJ fun i => b i
  refine ⟨fun j => if hj : j ∈ J then z ⟨j, hj⟩ else 0, fun i hi => ?_⟩
  rw [← congrFun hz ⟨i, hi⟩, ← Finset.sum_coe_sort J]
  exact Finset.sum_congr rfl fun j _ => by simp

end

/-! ### Syndromes as power sums (41_rs_fec.md R155) -/

section

variable {F : Type} [Field F] {φ : Sym → F} (hφ : ReadsSymbols φ)

/-- The locator of a position, as an element of the field. -/
def locatorIn (φ : Sym → F) (n j : Nat) : F := φ (locator n j)

include hφ

theorem locatorIn_eq (n j : Nat) : locatorIn φ n j = φ alpha ^ (n - 1 - j) := hφ.map_alphaPow _

theorem locatorIn_ne_zero (n j : Nat) : locatorIn φ n j ≠ 0 := by
  rw [locatorIn_eq hφ]
  exact pow_ne_zero _ (mt hφ.map_eq_zero_iff.mp (by decide))

/-- Different positions of a block of at most 255 symbols have different locators. -/
theorem locatorIn_injOn {n : Nat} (hn : n ≤ 255) : Set.InjOn (locatorIn φ n) (Finset.range n) := by
  intro j hj k hk h
  simp only [Finset.coe_range, Set.mem_Iio] at hj hk
  simp only [locatorIn_eq hφ] at h
  have hbelow : ∀ i, n - 1 - i ∈ Set.Iio (orderOf (φ alpha)) := fun i => by
    rw [hφ.orderOf_alpha, Set.mem_Iio]
    omega
  have hexp := pow_injOn_Iio_orderOf (hbelow j) (hbelow k) h
  omega

theorem map_polyEval (r : List Sym) (v : Sym) :
    φ (polyEval r v) = ∑ j ∈ Finset.range r.length, φ (r.getD j 0) * φ v ^ (r.length - 1 - j) := by
  induction r using List.reverseRecOn with
  | nil => simpa [polyEval] using hφ.map_zero
  | append_singleton r c ih =>
    rw [polyEval_concat, hφ.map_gadd, hφ.map_gmul, ih, List.length_append, List.length_singleton, Finset.sum_range_succ,
      Finset.sum_mul]
    congr 1
    · refine Finset.sum_congr rfl fun j hj => ?_
      rw [Finset.mem_range] at hj
      rw [List.getD_append _ _ _ _ hj, mul_assoc, ← pow_succ, show r.length - 1 - j + 1 = r.length + 1 - 1 - j by omega]
    · simp

theorem map_syndrome (r : List Sym) (i : Nat) :
    φ (syndrome r i) = ∑ j ∈ Finset.range r.length, φ (r.getD j 0) * locatorIn φ r.length j ^ i := by
  rw [syndrome, map_polyEval hφ]
  refine Finset.sum_congr rfl fun j _ => ?_
  rw [locatorIn_eq hφ, hφ.map_alphaPow, ← pow_mul, ← pow_mul, Nat.mul_comm]

theorem isCodeword_iff_powerSums (p : Nat) (c : List Sym) : isCodeword p c = true ↔
    ∀ i < p, ∑ j ∈ Finset.range c.length, φ (c.getD j 0) * locatorIn φ c.length j ^ i = 0 := by
  rw [isCodeword_iff]
  refine forall₂_congr fun i _ => ?_
  rw [← map_syndrome hφ, hφ.map_eq_zero_iff]

end

/-! ### Counting positions -/

theorem length_filter_range_eq_card (n : Nat) (q : Nat → Bool) :
    ((List.range n).filter q).length = ((Finset.range n).filter fun j => q j = true).card := by
  rw [← List.countP_eq_length_filter, ← Nat.count_eq_card_filter_range, Nat.count]
  exact List.countP_congr fun j _ => by simp

theorem length_filter_eq_card {α : Type} (l : List α) (q : α → Bool) (a : α) :
    (l.filter q).length = ((Finset.range l.length).filter fun j => q (l.getD j a) = true).card := by
  have hmap : l = (List.range l.length).map fun j => l.getD j a :=
    List.ext_getElem (by simp) fun j hj _ => by simp [hj]
  conv_lhs => rw [hmap]
  rw [List.filter_map, List.length_map, length_filter_range_eq_card]
  rfl

theorem getD_zip {α β : Type} {l : List α} {m : List β} (h : l.length = m.length) (j : Nat) (a : α) (b : β) :
    (List.zip l m).getD j (a, b) = (l.getD j a, m.getD j b) := by
  by_cases hj : j < l.length
  · simp [hj, h ▸ hj]
  · simp [not_lt.mp hj, h ▸ not_lt.mp hj]

/-- The positions below `n` in which two lists differ. -/
def differing (n : Nat) (c d : List Sym) : Finset Nat := (Finset.range n).filter fun j => c.getD j 0 ≠ d.getD j 0

/-- The positions below `n` that are erased. -/
def erasedSet (n : Nat) (era : List Bool) : Finset Nat := (Finset.range n).filter fun j => era.getD j false = true

theorem differences_eq_card {c d : List Sym} (h : c.length = d.length) :
    differences c d = (differing c.length c d).card := by
  rw [differences, length_filter_eq_card _ _ (0, 0)]
  simp only [getD_zip h, List.length_zip, h, min_self, bne_iff_ne, differing]

theorem erasureCount_eq_card (era : List Bool) : erasureCount era = (erasedSet era.length era).card :=
  length_filter_eq_card era id false

theorem errorCount_eq_card {r c : List Sym} {era : List Bool} (hc : c.length = r.length) (hera : era.length = r.length) :
    errorCount r c era = (differing r.length r c \ erasedSet r.length era).card := by
  have hzip : (List.zip r c).length = era.length := by simp [hc, hera]
  rw [errorCount, length_filter_eq_card _ _ ((0, 0), false)]
  congr 1
  ext j
  simp only [getD_zip hzip, getD_zip hc.symm, List.length_zip, hc, hera, min_self, differing, erasedSet, Finset.mem_filter,
    Finset.mem_sdiff, Finset.mem_range, Bool.and_eq_true, Bool.not_eq_true', bne_iff_ne, Bool.eq_false_iff, ne_eq]
  tauto

theorem eq_of_differing_eq_empty {n : Nat} {c d : List Sym} (hc : c.length = n) (hd : d.length = n)
    (h : differing n c d = ∅) : c = d := by
  refine List.ext_getElem (hc.trans hd.symm) fun j hj hj' => ?_
  by_contra hne
  refine Finset.notMem_empty j (h ▸ Finset.mem_filter.mpr ⟨Finset.mem_range.mpr (hc ▸ hj), ?_⟩)
  simpa [hj, hj'] using hne

theorem differing_comm (n : Nat) (c d : List Sym) : differing n c d = differing n d c :=
  Finset.filter_congr fun _ _ => ne_comm

/-- Where two lists differ, one of them differs from a third. -/
theorem differing_subset_union (n : Nat) (c r d : List Sym) : differing n c d ⊆ differing n c r ∪ differing n r d := by
  intro j hj
  simp only [differing, Finset.mem_union, Finset.mem_filter] at hj ⊢
  by_cases h : c.getD j 0 = r.getD j 0
  · exact .inr ⟨hj.1, h ▸ hj.2⟩
  · exact .inl ⟨hj.1, h⟩

/-! ### Distance (41_rs_fec.md R158) -/

/-- Two different codewords differ in more than `p` positions: the differences are power sums that all vanish. -/
theorem lt_card_differing {p n : Nat} {c d : List Sym} (hn : n ≤ 255) (hc : c.length = n) (hd : d.length = n)
    (hcode : isCodeword p c = true) (hcode' : isCodeword p d = true) (hne : c ≠ d) : p < (differing n c d).card := by
  obtain ⟨F, _, φ, hφ⟩ := exists_readsSymbols
  rw [isCodeword_iff_powerSums hφ, hc] at hcode
  rw [isCodeword_iff_powerSums hφ, hd] at hcode'
  by_contra hle
  have hsums : ∀ i < p, ∑ j ∈ differing n c d, (φ (c.getD j 0) - φ (d.getD j 0)) * locatorIn φ n j ^ i = 0 := by
    intro i hi
    rw [differing, Finset.sum_filter_of_ne, Finset.sum_congr rfl fun j _ => sub_mul _ _ _, Finset.sum_sub_distrib,
      hcode i hi, hcode' i hi, sub_zero]
    intro j _ hterm heq
    rw [heq, sub_self, zero_mul] at hterm
    exact hterm rfl
  have hzero := eq_zero_of_powerSums ((locatorIn_injOn hφ hn).mono (Finset.coe_subset.mpr (Finset.filter_subset _ _)))
    (not_lt.mp hle) hsums
  refine hne (eq_of_differing_eq_empty hc hd (Finset.eq_empty_of_forall_notMem fun j hj => ?_))
  exact (Finset.mem_filter.mp hj).2 (hφ.injective (sub_eq_zero.mp (hzero j hj)))

/-- At most one codeword is within the bound of a received word (41_rs_fec.md R159). -/
theorem withinBound_unique {p : Nat} {r c d : List Sym} {era : List Bool} (hera : era.length = r.length)
    (hn : r.length ≤ 255) (hc : withinBound p r era c) (hd : withinBound p r era d) : c = d := by
  obtain ⟨hclen, hcode, hcerr⟩ := hc
  obtain ⟨hdlen, hdcode, hderr⟩ := hd
  by_contra hne
  have hdist := lt_card_differing hn hclen hdlen hcode hdcode hne
  rw [errorCount_eq_card hclen hera, erasureCount_eq_card, hera] at hcerr
  rw [errorCount_eq_card hdlen hera, erasureCount_eq_card, hera] at hderr
  have hcover : differing r.length c d ⊆ ((differing r.length r c \ erasedSet r.length era)
      ∪ (differing r.length r d \ erasedSet r.length era)) ∪ erasedSet r.length era := by
    refine (differing_subset_union _ c r d).trans fun j hj => ?_
    rw [differing_comm _ c r] at hj
    simp only [Finset.mem_union, Finset.mem_sdiff] at hj ⊢
    tauto
  have hcard := ((Finset.card_le_card hcover).trans (Finset.card_union_le _ _)).trans
    (Nat.add_le_add_right (Finset.card_union_le _ _) _)
  omega

/-- The received word with the symbols `z` at the erased positions. -/
def fillErased (r : List Sym) (era : List Bool) (z : Nat → Sym) : List Sym :=
  (List.range r.length).map fun j => if era.getD j false then z j else r.getD j 0

theorem fillErased_length (r : List Sym) (era : List Bool) (z : Nat → Sym) : (fillErased r era z).length = r.length := by
  simp [fillErased]

theorem fillErased_getD_of_mem {r : List Sym} {era : List Bool} {j : Nat} (z : Nat → Sym)
    (hj : j ∈ erasedSet r.length era) : (fillErased r era z).getD j 0 = z j := by
  obtain ⟨hlt, hera⟩ := Finset.mem_filter.mp hj
  rw [List.getD_eq_getElem _ _ (by simpa [fillErased] using hlt)]
  simp [fillErased, List.getD_eq_getElem?_getD ▸ hera]

theorem fillErased_getD_of_notMem {r : List Sym} {era : List Bool} {j : Nat} (z : Nat → Sym)
    (hj : j ∈ Finset.range r.length \ erasedSet r.length era) : (fillErased r era z).getD j 0 = r.getD j 0 := by
  obtain ⟨hlt, hkept⟩ := Finset.mem_sdiff.mp hj
  have hera : ¬ era.getD j false = true := fun h => hkept (Finset.mem_filter.mpr ⟨hlt, h⟩)
  rw [List.getD_eq_getElem _ _ (by simpa [fillErased] using hlt)]
  simp only [fillErased, List.getElem_map, List.getElem_range, if_neg hera]

/-- With as many erasures as parity symbols the erased symbols can be chosen to make a codeword. -/
theorem exists_withinBound {r : List Sym} {era : List Bool} (hera : era.length = r.length) (hn : r.length ≤ 255) :
    ∃ c, withinBound (erasureCount era) r era c := by
  obtain ⟨F, _, φ, hφ⟩ := exists_readsSymbols
  have hsub : erasedSet r.length era ⊆ Finset.range r.length := Finset.filter_subset _ _
  obtain ⟨y, hy⟩ := exists_powerSums ((locatorIn_injOn hφ hn).mono (Finset.coe_subset.mpr hsub))
    ((erasureCount_eq_card era).trans (by rw [hera])).symm
    fun i => -∑ j ∈ Finset.range r.length \ erasedSet r.length era, φ (r.getD j 0) * locatorIn φ r.length j ^ i
  choose z hz using fun j => hφ.bijective.2 (y j)
  have hlen := fillErased_length r era z
  refine ⟨fillErased r era z, hlen, (isCodeword_iff_powerSums hφ _ _).mpr fun i hi => ?_, ?_⟩
  · rw [hlen, ← Finset.sum_sdiff hsub, ← neg_eq_iff_add_eq_zero.mp (hy i hi).symm]
    congr 1
    · exact Finset.sum_congr rfl fun j hj => by rw [fillErased_getD_of_notMem z hj]
    · exact Finset.sum_congr rfl fun j hj => by rw [fillErased_getD_of_mem z hj, hz]
  · have hnone : differing r.length r (fillErased r era z) \ erasedSet r.length era = ∅ := by
      refine Finset.eq_empty_of_forall_notMem fun j hj => ?_
      obtain ⟨hdiff, hkept⟩ := Finset.mem_sdiff.mp hj
      obtain ⟨hlt, hne⟩ := Finset.mem_filter.mp hdiff
      exact hne (fillErased_getD_of_notMem z (Finset.mem_sdiff.mpr ⟨hlt, hkept⟩)).symm
    rw [errorCount_eq_card hlen hera, hnone]
    simp

/-- Settles O44. -/
theorem codeIsMaximumDistanceSeparable : Obligations.CodeIsMaximumDistanceSeparable := by
  unfold Obligations.CodeIsMaximumDistanceSeparable
  constructor
  · intro p c d hlen hn hc hd hne
    rw [differences_eq_card hlen]
    exact lt_card_differing hn rfl hlen.symm hc hd hne
  · rintro p r era hera hn rfl
    obtain ⟨c, hc⟩ := exists_withinBound hera hn
    exact ⟨c, hc, fun d hd => withinBound_unique hera hn hd hc⟩

/-! ### What the decoder answers (41_rs_fec.md R159, R165) -/

theorem withinBound_of_decodeBlock {p : Nat} {r : List Sym} {era : List Bool} {c : List Sym} {e : Nat}
    (hera : era.length = r.length) (h : decodeBlock p r era = some (c, e)) :
    withinBound p r era c ∧ e = errorCount r c era := by
  obtain ⟨hlen, hcode, rfl, hbound⟩ := decodeBlock_sound hera h
  exact ⟨⟨hlen, hcode, hbound⟩, rfl⟩

/-- Settles O45: step 8 of R167 checks the answer. -/
theorem decoderAnswersAreWithinTheBound : Obligations.DecoderAnswersAreWithinTheBound := by
  unfold Obligations.DecoderAnswersAreWithinTheBound
  exact fun p r era c e hera => withinBound_of_decodeBlock hera

theorem erasedSet_replicate_false (n m : Nat) : erasedSet n (List.replicate m false) = ∅ := by
  refine Finset.filter_false_of_mem fun j _ => ?_
  by_cases hj : j < m <;> simp [hj]

/-- Settles O47: the answer would be a codeword nearer to the sent one than the distance allows. -/
theorem oneErrorBeyondTheBoundIsDetected : Obligations.OneErrorBeyondTheBoundIsDetected := by
  unfold Obligations.OneErrorBeyondTheBoundIsDetected
  refine ⟨fun p r c hodd _ hn hclen hcode hdiff => ?_, by decide +kernel, by decide +kernel⟩
  cases hdec : decodeBlock p r (List.replicate r.length false) with
  | none => rfl
  | some answer =>
    exfalso
    obtain ⟨d, e⟩ := answer
    obtain ⟨⟨hdlen, hdcode, hbound⟩, -⟩ := withinBound_of_decodeBlock List.length_replicate hdec
    rw [errorCount_eq_card hdlen List.length_replicate, erasedSet_replicate_false, Finset.sdiff_empty] at hbound
    rw [differences_eq_card hclen, hclen] at hdiff
    have hne : c ≠ d := by
      rintro rfl
      rw [differing_comm] at hdiff
      omega
    have hdist := lt_card_differing hn hclen hdlen hcode hdcode hne
    have htriangle := (Finset.card_le_card (differing_subset_union r.length c r d)).trans (Finset.card_union_le _ _)
    omega

end Sys2Proof.Proofs

/-! Proofs, part 22: lists of symbols as polynomials, lowest degree first (for O46). -/

namespace Sys2Proof.Proofs

open Sys2Proof Sys2Proof.Machine Sys2Proof.Safety
open Polynomial

-- One theorem after the other: side by side, they ask for more threads than the memory limit allows.
set_option Elab.async false

/-- The polynomial a list of symbols stands for, lowest degree first. -/
noncomputable def lowPoly {F : Type} [Field F] (φ : Sym → F) : List Sym → F[X]
  | [] => 0
  | a :: f => C (φ a) + X * lowPoly φ f

namespace ReadsSymbols

variable {F : Type} [Field F] {φ : Sym → F} (hφ : ReadsSymbols φ)

include hφ

theorem coeff_lowPoly (f : List Sym) : ∀ i, (lowPoly φ f).coeff i = φ (f.getD i 0) := by
  induction f with
  | nil => intro i; simpa [lowPoly] using hφ.map_zero.symm
  | cons a f ih =>
    intro i
    cases i with
    | zero => simp [lowPoly]
    | succ i => simpa [lowPoly, coeff_C] using ih i

/-! ### The operations (41_rs_fec.md R153) -/

theorem lowPoly_polyAdd (f g : List Sym) : lowPoly φ (polyAdd f g) = lowPoly φ f + lowPoly φ g := by
  induction f generalizing g with
  | nil => simp [polyAdd, lowPoly]
  | cons a f ih =>
    cases g with
    | nil => simp [polyAdd, lowPoly]
    | cons b g => simp only [polyAdd, lowPoly, ih, hφ.map_gadd, C_add]; ring

theorem lowPoly_polyScale (k : Sym) (f : List Sym) : lowPoly φ (polyScale k f) = C (φ k) * lowPoly φ f := by
  induction f with
  | nil => simp [polyScale, lowPoly]
  | cons a f ih =>
    have hcons : polyScale k (a :: f) = gmul k a :: polyScale k f := rfl
    rw [hcons, lowPoly, lowPoly, ih, hφ.map_gmul, C_mul]
    ring

theorem lowPoly_cons_zero (f : List Sym) : lowPoly φ (0 :: f) = X * lowPoly φ f := by
  rw [lowPoly, hφ.map_zero, C_0, zero_add]

theorem lowPoly_polyMul (f g : List Sym) : lowPoly φ (polyMul f g) = lowPoly φ f * lowPoly φ g := by
  induction f with
  | nil => simp [polyMul, lowPoly]
  | cons a f ih =>
    rw [polyMul, hφ.lowPoly_polyAdd, hφ.lowPoly_polyScale, hφ.lowPoly_cons_zero, ih, lowPoly]
    ring

theorem lowPoly_shift (m : Nat) (f : List Sym) : lowPoly φ (List.replicate m 0 ++ f) = X ^ m * lowPoly φ f := by
  induction m with
  | zero => simp
  | succ m ih => rw [List.replicate_succ, List.cons_append, hφ.lowPoly_cons_zero, ih, pow_succ']; ring

theorem coeff_lowPoly_take (f : List Sym) (p i : Nat) :
    (lowPoly φ (f.take p)).coeff i = if i < p then (lowPoly φ f).coeff i else 0 := by
  rw [hφ.coeff_lowPoly, hφ.coeff_lowPoly, List.getD_eq_getElem?_getD, List.getElem?_take]
  split_ifs
  · rw [List.getD_eq_getElem?_getD]
  · exact hφ.map_zero

theorem coeff_lowPoly_drop (f : List Sym) (s i : Nat) :
    (lowPoly φ (f.drop s)).coeff i = (lowPoly φ f).coeff (s + i) := by
  rw [hφ.coeff_lowPoly, hφ.coeff_lowPoly, List.getD_eq_getElem?_getD, List.getElem?_drop, List.getD_eq_getElem?_getD]

theorem map_polyEvalLow (f : List Sym) (v : Sym) : φ (polyEvalLow f v) = (lowPoly φ f).eval (φ v) := by
  induction f with
  | nil => simpa [polyEvalLow, polyEval, lowPoly] using hφ.map_zero
  | cons a f ih =>
    unfold polyEvalLow at ih ⊢
    rw [List.reverse_cons, polyEval_concat, hφ.map_gadd, hφ.map_gmul, ih, lowPoly, eval_add, eval_C, eval_mul, eval_X]
    ring

/-- The odd-degree terms shifted down are the derivative, as the even-degree ones have an even factor. -/
theorem lowPoly_polyDeriv (f : List Sym) : lowPoly φ (polyDeriv f) = derivative (lowPoly φ f) := by
  induction f using polyDeriv.induct with
  | case1 => simp [polyDeriv, lowPoly]
  | case2 a => simp [polyDeriv, lowPoly]
  | case3 a b => simp [polyDeriv, lowPoly]
  | case4 a b f hne ih =>
    have htwo : (2 : F[X]) = 0 := by
      rw [← one_add_one_eq_two, ← C_1, ← C_add, hφ.add_self, C_0]
    have hstep : polyDeriv (a :: b :: f) = b :: 0 :: polyDeriv f := by rw [polyDeriv]; exact hne
    rw [hstep, lowPoly, hφ.lowPoly_cons_zero, ih, lowPoly, lowPoly]
    simp only [derivative_add, derivative_C, derivative_mul, derivative_X]
    linear_combination (-X * lowPoly φ f) * htwo

/-- The degree without the leading zeros. -/
theorem polyDeg_eq_natDegree (f : List Sym) : polyDeg f = (lowPoly φ f).natDegree := by
  induction f using List.reverseRecOn with
  | nil => simp [polyDeg, lowPoly]
  | append_singleton f a ih =>
    by_cases ha : a = 0
    · have hsame : lowPoly φ (f ++ [0]) = lowPoly φ f := by
        ext i
        rw [hφ.coeff_lowPoly, hφ.coeff_lowPoly, List.getD_eq_getElem?_getD, List.getElem?_append,
          List.getD_eq_getElem?_getD]
        split_ifs with hi
        · rfl
        · cases h : i - f.length <;> simp [not_lt.mp hi]
      rw [ha, hsame, ← ih]
      simp [polyDeg]
    · have hdrop : polyDeg (f ++ [a]) = f.length := by
        rw [polyDeg, List.reverse_append, List.reverse_singleton, List.singleton_append,
          List.dropWhile_cons_of_neg (by simpa using ha), List.length_cons, List.length_reverse, Nat.add_sub_cancel]
      rw [hdrop]
      refine (natDegree_eq_of_le_of_coeff_ne_zero (natDegree_le_iff_coeff_eq_zero.mpr fun i hi => ?_) ?_).symm
      · rw [hφ.coeff_lowPoly, List.getD_eq_default _ _ (by simp; omega), hφ.map_zero]
      · rw [hφ.coeff_lowPoly]
        simpa [hφ.map_eq_zero_iff] using ha

/-- The syndromes, read as the coefficients of a polynomial. -/
theorem coeff_syndromes (p : Nat) (r : List Sym) (i : Nat) :
    (lowPoly φ (syndromes p r)).coeff i = if i < p then φ (syndrome r i) else 0 := by
  rw [hφ.coeff_lowPoly]
  split_ifs with hi
  · simp [syndromes, hi]
  · rw [List.getD_eq_default _ _ (by simpa using hi), hφ.map_zero]

end ReadsSymbols

end Sys2Proof.Proofs

/-! Proofs, part 23: the Berlekamp-Massey iteration finds a shortest recurrence (41_rs_fec.md R167 step 3; for O46). -/

namespace Sys2Proof.Proofs

open Sys2Proof Sys2Proof.Machine Sys2Proof.Safety
open Polynomial

-- One theorem after the other: side by side, they ask for more threads than the memory limit allows.
set_option Elab.async false

/-! ### Recurrences -/

section

variable {F : Type} [Field F]

/-- `A`, of degree at most `len`, is a recurrence of the sequence with generating polynomial `U` up to term `n`. -/
structure Recurrence (U A : F[X]) (len n : Nat) : Prop where
  degree : A.natDegree ≤ len
  vanish : ∀ k, len ≤ k → k < n → (A * U).coeff k = 0

theorem Recurrence.mono {U A : F[X]} {len n m : Nat} (h : Recurrence U A len n) (hm : m ≤ n) : Recurrence U A len m :=
  ⟨h.degree, fun k hlo hk => h.vanish k hlo (hk.trans_le hm)⟩

/-- Where `V` vanishes on the window below `n` that `A` reaches, only the constant term of `A` counts at `n`. -/
theorem coeff_mul_of_window {A V : F[X]} {a n : Nat} (hA : A.natDegree ≤ a)
    (hV : ∀ k, n ≤ k + a → k < n → V.coeff k = 0) : (A * V).coeff n = A.coeff 0 * V.coeff n := by
  rw [coeff_mul]
  refine Finset.sum_eq_single_of_mem (0, n) (by simp) fun x hx hne => ?_
  obtain ⟨i, k⟩ := x
  have hsum : i + k = n := by simpa using hx
  have hpos : 0 < i := Nat.pos_of_ne_zero fun hi => hne (by rw [Prod.mk.injEq]; omega)
  obtain hle | hlt := le_or_gt i a
  · rw [hV k (by omega) (by omega), mul_zero]
  · rw [coeff_eq_zero_of_natDegree_lt (hA.trans_lt hlt), zero_mul]

/-- Massey's bound: a recurrence that fails at term `n` and one that does not are together longer than `n`. -/
theorem Recurrence.lt_add_len {U A B : F[X]} {a b n : Nat} (hA : Recurrence U A a n) (hfail : (A * U).coeff n ≠ 0)
    (hB : Recurrence U B b (n + 1)) (hconst : B.coeff 0 = 1) : n < a + b := by
  by_contra hle
  have hleft : (B * (A * U)).coeff n = (A * U).coeff n := by
    rw [coeff_mul_of_window hB.degree fun k hlo hk => hA.vanish k (by omega) hk, hconst, one_mul]
  have hright : (A * (B * U)).coeff n = 0 := by
    rw [coeff_mul_of_window hA.degree fun k hlo hk => hB.vanish k (by omega) (by omega),
      hB.vanish n (by omega) (by omega), mul_zero]
  rw [mul_left_comm, hleft] at hright
  exact hfail hright

end

/-! ### The iteration -/

section

variable {F : Type} [Field F] {φ : Sym → F} (hφ : ReadsSymbols φ) {u : List Sym} {b : BmState} {n : Nat}

/-- The correction that a discrepancy `d` adds to the connection polynomial. -/
def bmCorrection (b : BmState) (d : Sym) : List Sym :=
  List.replicate b.shift 0 ++ polyScale (gmul d (ginv b.prevDisc)) b.prev

/-- What the iteration keeps of the polynomial before the last length change: the iteration is still at its start, or that
polynomial is a recurrence that failed `shift` terms ago. -/
def PrevFailed (φ : Sym → F) (u : List Sym) (b : BmState) (n : Nat) : Prop :=
  (b.len = 0 ∧ b.shift = n + 1 ∧ (lowPoly φ b.prev).natDegree = 0)
    ∨ ∃ len' n', Recurrence (lowPoly φ u) (lowPoly φ b.prev) len' n'
        ∧ (lowPoly φ b.prev * lowPoly φ u).coeff n' = φ b.prevDisc ∧ b.prevDisc ≠ 0
        ∧ n' + b.shift = n ∧ n' + 1 = len' + b.len

/-- The invariant after `n` terms. -/
structure BmInvariant (φ : Sym → F) (u : List Sym) (b : BmState) (n : Nat) : Prop where
  const : (lowPoly φ b.conn).coeff 0 = 1
  recurrence : Recurrence (lowPoly φ u) (lowPoly φ b.conn) b.len n
  len_le : b.len ≤ n
  shift_pos : 0 < b.shift
  prev : PrevFailed φ u b n
  shortest : ∀ A m, Recurrence (lowPoly φ u) A m n → A.coeff 0 = 1 → b.len ≤ m

include hφ

theorem lowPoly_bmCorrection (d : Sym) :
    lowPoly φ (bmCorrection b d) = X ^ b.shift * (C (φ d * (φ b.prevDisc)⁻¹) * lowPoly φ b.prev) := by
  rw [bmCorrection, hφ.lowPoly_shift, hφ.lowPoly_polyScale, hφ.map_gmul, hφ.map_ginv]

theorem natDegree_bmCorrection_le (d : Sym) {m : Nat} (h : (lowPoly φ b.prev).natDegree ≤ m) :
    (lowPoly φ (bmCorrection b d)).natDegree ≤ b.shift + m := by
  rw [lowPoly_bmCorrection hφ]
  exact natDegree_mul_le.trans (Nat.add_le_add (natDegree_X_pow_le _) ((natDegree_C_mul_le _ _).trans h))

theorem map_foldl_gadd (f : Nat → Sym) (m : Nat) :
    φ ((List.range m).foldl (fun acc i => gadd acc (f i)) 0) = ∑ i ∈ Finset.range m, φ (f i) := by
  induction m with
  | zero => simpa using hφ.map_zero
  | succ m ih =>
    rw [List.range_succ, List.foldl_append, List.foldl_cons, List.foldl_nil, hφ.map_gadd, ih, Finset.sum_range_succ]

/-- The discrepancy is a coefficient of the product. -/
theorem map_bmDiscrepancy (hdeg : (lowPoly φ b.conn).natDegree ≤ b.len) (hlen : b.len ≤ n) :
    φ (bmDiscrepancy u b n) = (lowPoly φ b.conn * lowPoly φ u).coeff n := by
  rw [bmDiscrepancy, map_foldl_gadd hφ, coeff_mul,
    Finset.Nat.sum_antidiagonal_eq_sum_range_succ fun i j => (lowPoly φ b.conn).coeff i * (lowPoly φ u).coeff j]
  simp only [hφ.map_gmul, ← hφ.coeff_lowPoly]
  refine Finset.sum_subset (Finset.range_subset_range.mpr (by omega)) fun i _ hi => ?_
  rw [coeff_eq_zero_of_natDegree_lt (hdeg.trans_lt (by simpa using hi)), zero_mul]

/-- The corrected polynomial is a recurrence of one term more, at the length of Massey's bound. -/
theorem BmInvariant.corrected (h : BmInvariant φ u b n) :
    Recurrence (lowPoly φ u) (lowPoly φ (polyAdd b.conn (bmCorrection b (bmDiscrepancy u b n))))
      (max b.len (n + 1 - b.len)) (n + 1) := by
  have hdisc := map_bmDiscrepancy (u := u) hφ h.recurrence.degree h.len_le
  have hlen := h.len_le
  rw [hφ.lowPoly_polyAdd]
  obtain ⟨hstart, hshift, hprev⟩ | ⟨len', n', hrec, hdisc', hne, hshift, hlen'⟩ := h.prev
  · refine ⟨(natDegree_add_le _ _).trans (max_le_max h.recurrence.degree ?_), fun k hlo hk => by omega⟩
    exact (natDegree_bmCorrection_le hφ _ hprev.le).trans (by omega)
  · refine ⟨(natDegree_add_le _ _).trans (max_le_max h.recurrence.degree ?_), fun k hlo hk => ?_⟩
    · exact (natDegree_bmCorrection_le hφ _ hrec.degree).trans (by omega)
    · obtain ⟨j, rfl⟩ := Nat.exists_eq_add_of_le' (show b.shift ≤ k by omega)
      rw [lowPoly_bmCorrection hφ, add_mul, coeff_add, mul_assoc, coeff_X_pow_mul, mul_assoc, coeff_C_mul]
      obtain hlt | heq := (show j ≤ n' by omega).lt_or_eq
      · rw [h.recurrence.vanish _ (by omega) (by omega), hrec.vanish j (by omega) hlt, mul_zero, add_zero]
      · rw [heq, hdisc', hshift, ← hdisc, mul_assoc, inv_mul_cancel₀ (mt hφ.map_eq_zero_iff.mp hne), mul_one,
          hφ.add_self]

theorem BmInvariant.corrected_const (h : BmInvariant φ u b n) (d : Sym) :
    (lowPoly φ (polyAdd b.conn (bmCorrection b d))).coeff 0 = 1 := by
  have hpos := h.shift_pos
  rw [hφ.lowPoly_polyAdd, lowPoly_bmCorrection hφ, coeff_add, h.const, coeff_X_pow_mul', if_neg (by omega), add_zero]

/-- A term the recurrence already gives. -/
theorem BmInvariant.of_disc_zero (h : BmInvariant φ u b n) (hd : bmDiscrepancy u b n = 0) :
    BmInvariant φ u { b with shift := b.shift + 1 } (n + 1) where
  const := h.const
  recurrence := ⟨h.recurrence.degree, fun k hlo hk => by
    obtain hlt | rfl := (Nat.lt_succ_iff.mp hk).lt_or_eq
    · exact h.recurrence.vanish k hlo hlt
    · rw [← map_bmDiscrepancy hφ h.recurrence.degree h.len_le, hd, hφ.map_zero]⟩
  len_le := h.len_le.trans (Nat.le_succ n)
  shift_pos := Nat.succ_pos _
  prev := h.prev.imp (fun ⟨hlen, hshift, hprev⟩ => ⟨hlen, congrArg Nat.succ hshift, hprev⟩)
    fun ⟨len', n', hrec, hdisc, hne, hshift, hlen⟩ => ⟨len', n', hrec, hdisc, hne, congrArg Nat.succ hshift, hlen⟩
  shortest A m hA hconst := h.shortest A m (hA.mono (Nat.le_succ n)) hconst

/-- A term that makes the recurrence longer: by Massey's bound no shorter one gives it. -/
theorem BmInvariant.of_lengthened (h : BmInvariant φ u b n) (hd : bmDiscrepancy u b n ≠ 0) (hlen : 2 * b.len ≤ n) :
    BmInvariant φ u
      { conn := polyAdd b.conn (bmCorrection b (bmDiscrepancy u b n)), len := n + 1 - b.len, prev := b.conn,
        prevDisc := bmDiscrepancy u b n, shift := 1 } (n + 1) where
  const := h.corrected_const hφ _
  recurrence := by simpa [show b.len ≤ n + 1 - b.len by omega] using h.corrected hφ
  len_le := Nat.sub_le _ _
  shift_pos := Nat.one_pos
  prev := .inr ⟨b.len, n, h.recurrence, (map_bmDiscrepancy hφ h.recurrence.degree h.len_le).symm, hd, rfl, by
    show n + 1 = b.len + (n + 1 - b.len)
    omega⟩
  shortest A m hA hconst := by
    have hfail := mt hφ.map_eq_zero_iff.mp hd
    rw [map_bmDiscrepancy hφ h.recurrence.degree h.len_le] at hfail
    have := h.recurrence.lt_add_len hfail hA hconst
    show n + 1 - b.len ≤ m
    omega

/-- A term that changes the recurrence and not its length. -/
theorem BmInvariant.of_changed (h : BmInvariant φ u b n) (hlen : n < 2 * b.len) :
    BmInvariant φ u
      { b with conn := polyAdd b.conn (bmCorrection b (bmDiscrepancy u b n)), shift := b.shift + 1 } (n + 1) where
  const := h.corrected_const hφ _
  recurrence := by simpa [show n + 1 - b.len ≤ b.len by omega] using h.corrected hφ
  len_le := h.len_le.trans (Nat.le_succ n)
  shift_pos := Nat.succ_pos _
  prev := h.prev.imp (fun ⟨hlen', hshift, hprev⟩ => ⟨hlen', congrArg Nat.succ hshift, hprev⟩)
    fun ⟨len', n', hrec, hdisc, hne, hshift, hlen'⟩ => ⟨len', n', hrec, hdisc, hne, congrArg Nat.succ hshift, hlen'⟩
  shortest A m hA hconst := h.shortest A m (hA.mono (Nat.le_succ n)) hconst

theorem BmInvariant.step (h : BmInvariant φ u b n) : BmInvariant φ u (bmStep u b n) (n + 1) := by
  simp only [bmStep]
  split_ifs with hd hlen
  · exact h.of_disc_zero hφ hd
  · exact h.of_lengthened hφ hd hlen
  · exact h.of_changed hφ (not_le.mp hlen)

theorem bmInvariant_start (u : List Sym) : BmInvariant φ u bmStart 0 := by
  have hone : lowPoly φ [1] = 1 := by rw [lowPoly, lowPoly, hφ.map_one, mul_zero, add_zero, C_1]
  have hdeg : (lowPoly φ [1]).natDegree = 0 := (congrArg natDegree hone).trans natDegree_one
  exact {
    const := (congrArg (coeff · 0) hone).trans coeff_one_zero
    recurrence := ⟨hdeg.le, fun k _ hk => absurd hk (Nat.not_lt_zero k)⟩
    len_le := le_rfl
    shift_pos := Nat.one_pos
    prev := .inl ⟨rfl, rfl, hdeg⟩
    shortest := fun A m _ _ => Nat.zero_le m }

theorem bmInvariant_berlekampMassey (u : List Sym) : BmInvariant φ u (berlekampMassey u) u.length := by
  have hprefix : ∀ m, BmInvariant φ u ((List.range m).foldl (bmStep u) bmStart) m := fun m => by
    induction m with
    | zero => exact bmInvariant_start hφ u
    | succ m ih =>
      rw [List.range_succ, List.foldl_append]
      exact ih.step hφ
  exact hprefix u.length

end

end Sys2Proof.Proofs

/-! Proofs, part 24: the locator polynomials and the steps of R167 over the field (for O46). -/

namespace Sys2Proof.Proofs

open Sys2Proof Sys2Proof.Machine Sys2Proof.Safety
open Polynomial

-- One theorem after the other: side by side, they ask for more threads than the memory limit allows.
set_option Elab.async false

/-! ### The polynomial of a set of locators -/

section

variable {F : Type} [Field F] {ι : Type} {x : ι → F} {K : Finset ι}

/-- The product over `K` of `1 - x_j X` (41_rs_fec.md R167 step 2). -/
noncomputable def locatorProd (x : ι → F) (K : Finset ι) : F[X] := ∏ j ∈ K, (1 - C (x j) * X)

theorem locatorProd_coeff_zero : (locatorProd x K).coeff 0 = 1 := by
  simp [locatorProd, coeff_zero_prod]

theorem locatorProd_natDegree_le : (locatorProd x K).natDegree ≤ K.card := by
  refine (natDegree_prod_le _ _).trans ((Finset.sum_le_card_nsmul _ _ 1 fun j _ => ?_).trans (by simp))
  exact (natDegree_sub_le _ _).trans (max_le (by simp) ((natDegree_C_mul_le _ _).trans natDegree_X_le))

theorem eval_locatorProd (v : F) : (locatorProd x K).eval v = ∏ j ∈ K, (1 - x j * v) := by
  simp [locatorProd, eval_prod]

variable (hx : ∀ j, x j ≠ 0)

include hx

theorem one_sub_mul_inv_eq_zero_iff (i j : ι) : 1 - x i * (x j)⁻¹ = 0 ↔ x i = x j := by
  rw [sub_eq_zero, eq_comm, mul_inv_eq_one₀ (hx j)]

theorem eval_locatorProd_inv_of_mem {j : ι} (hj : j ∈ K) : (locatorProd x K).eval (x j)⁻¹ = 0 := by
  rw [eval_locatorProd]
  exact Finset.prod_eq_zero hj ((one_sub_mul_inv_eq_zero_iff hx j j).mpr rfl)

theorem eval_locatorProd_inv_ne_zero {j : ι} (hj : ∀ i ∈ K, x i ≠ x j) : (locatorProd x K).eval (x j)⁻¹ ≠ 0 := by
  rw [eval_locatorProd]
  exact Finset.prod_ne_zero_iff.mpr fun i hi => mt (one_sub_mul_inv_eq_zero_iff hx i j).mp (hj i hi)

/-- A polynomial with constant term 1 and degree at most `K.card` that vanishes at the inverse locators of `K` is the locator
polynomial of `K`: they agree there and at 0. -/
theorem eq_locatorProd (hinj : Set.InjOn x K) {A : F[X]} (hconst : A.coeff 0 = 1) (hdeg : A.natDegree ≤ K.card)
    (hroot : ∀ j ∈ K, A.eval (x j)⁻¹ = 0) : A = locatorProd x K := by
  classical
  have hcard : (insert 0 (K.image fun j => (x j)⁻¹)).card = K.card + 1 := by
    rw [Finset.card_insert_of_notMem, Finset.card_image_of_injOn fun i hi j hj h => hinj hi hj (inv_injective h)]
    simp [hx]
  refine eq_of_natDegree_lt_card_of_eval_eq' _ _ (insert 0 (K.image fun j => (x j)⁻¹)) (fun v hv => ?_) ?_
  · obtain rfl | hv := Finset.mem_insert.mp hv
    · rw [← coeff_zero_eq_eval_zero, ← coeff_zero_eq_eval_zero, hconst, locatorProd_coeff_zero]
    · obtain ⟨j, hj, rfl⟩ := Finset.mem_image.mp hv
      rw [hroot j hj, eval_locatorProd_inv_of_mem hx hj]
  · rw [hcard]
    exact Nat.lt_succ_of_le (max_le hdeg locatorProd_natDegree_le)

variable [DecidableEq ι]

omit hx in
theorem locatorProd_eq_mul_erase {j : ι} (hj : j ∈ K) :
    locatorProd x K = (1 - C (x j) * X) * locatorProd x (K.erase j) := (Finset.mul_prod_erase K _ hj).symm

/-- The derivative at a root, by the product rule. -/
theorem eval_derivative_locatorProd {j : ι} (hj : j ∈ K) :
    (derivative (locatorProd x K)).eval (x j)⁻¹ = -(x j * (locatorProd x (K.erase j)).eval (x j)⁻¹) := by
  rw [locatorProd_eq_mul_erase hj, derivative_mul]
  simp [hx j]

end

/-! ### Products with a polynomial of power sums -/

theorem mul_mul_inv_cancel {F : Type} [Field F] {x y v : F} (hx : x ≠ 0) (hv : v ≠ 0) : x * (y * v * (x * v)⁻¹) = y := by
  field_simp

section

variable {F : Type} [Field F] {ι : Type} {x y : ι → F} {K : Finset ι} {S A : F[X]} {p : Nat}

/-- Beyond the degree of `A` the coefficients of `A * S` are power sums again, weighted with the values of `A`. -/
theorem coeff_mul_powerSums (hx : ∀ j, x j ≠ 0) {n i : Nat} (hS : ∀ k < n, S.coeff k = ∑ j ∈ K, y j * x j ^ k)
    (hA : A.natDegree ≤ i) (hi : i < n) :
    (A * S).coeff i = ∑ j ∈ K, y j * A.eval (x j)⁻¹ * x j ^ i := by
  have hterm : ∀ j ∈ K, y j * A.eval (x j)⁻¹ * x j ^ i
      = ∑ a ∈ Finset.range (i + 1), A.coeff a * (y j * x j ^ (i - a)) := fun j _ => by
    rw [eval_eq_sum_range' (Nat.lt_succ_of_le hA), mul_assoc, Finset.sum_mul, Finset.mul_sum]
    refine Finset.sum_congr rfl fun a ha => ?_
    rw [← pow_sub_mul_pow (x j) (Nat.lt_succ_iff.mp (Finset.mem_range.mp ha)), inv_pow]
    field_simp [hx j]
  rw [coeff_mul, Finset.Nat.sum_antidiagonal_eq_sum_range_succ fun a b => A.coeff a * S.coeff b,
    Finset.sum_congr rfl hterm, Finset.sum_comm]
  refine Finset.sum_congr rfl fun a _ => ?_
  rw [hS _ (by omega), Finset.mul_sum]

variable [DecidableEq ι]

/-- The evaluator polynomial (41_rs_fec.md R167 step 6): one term for each locator, the others' factors with its value. -/
noncomputable def evaluator (x y : ι → F) (K : Finset ι) : F[X] := ∑ j ∈ K, C (y j) * locatorProd x (K.erase j)

theorem eval_evaluator (hx : ∀ j, x j ≠ 0) {j : ι} (hj : j ∈ K) :
    (evaluator x y K).eval (x j)⁻¹ = y j * (locatorProd x (K.erase j)).eval (x j)⁻¹ := by
  rw [evaluator, eval_finsetSum, Finset.sum_eq_single_of_mem j hj fun i _ hne => ?_, eval_mul, eval_C]
  rw [eval_mul, eval_locatorProd_inv_of_mem hx (Finset.mem_erase.mpr ⟨hne.symm, hj⟩), mul_zero]

/-- The key equation: the product of the locator polynomial with the power sums below `p` is the evaluator, below `p`. -/
theorem coeff_mul_locatorProd (hS : ∀ k, S.coeff k = if k < p then ∑ j ∈ K, y j * x j ^ k else 0) {i : Nat} (hi : i < p) :
    (S * locatorProd x K).coeff i = (evaluator x y K).coeff i := by
  have hgeom : S = ∑ j ∈ K, C (y j) * ∑ k ∈ Finset.range p, (C (x j) * X) ^ k := by
    ext k
    simp only [hS, finsetSum_coeff, coeff_C_mul, mul_pow, ← C_pow, coeff_X_pow]
    split_ifs with hk
    · refine Finset.sum_congr rfl fun j _ => ?_
      rw [Finset.sum_eq_single_of_mem k (Finset.mem_range.mpr hk) fun k' _ hne => by rw [if_neg hne.symm, mul_zero],
        if_pos rfl, mul_one]
    · refine (Finset.sum_eq_zero fun j _ => ?_).symm
      rw [Finset.sum_eq_zero fun k' hk' => ?_, mul_zero]
      rw [if_neg (by have := Finset.mem_range.mp hk'; omega), mul_zero]
  have hproduct : S * locatorProd x K = evaluator x y K
      - X ^ p * ∑ j ∈ K, C (y j * x j ^ p) * locatorProd x (K.erase j) := by
    rw [hgeom, evaluator, Finset.sum_mul, Finset.mul_sum, ← Finset.sum_sub_distrib]
    refine Finset.sum_congr rfl fun j hj => ?_
    rw [locatorProd_eq_mul_erase hj]
    have hsum := geom_sum_mul_neg (C (x j) * X) p
    rw [C_mul, C_pow]
    linear_combination (C (y j) * locatorProd x (K.erase j)) * hsum
  rw [hproduct, coeff_sub, coeff_X_pow_mul', if_neg (not_le.mpr hi), sub_zero]

theorem coeff_evaluator_of_le {i : Nat} (hi : K.card ≤ i) : (evaluator x y K).coeff i = 0 := by
  rw [evaluator, finsetSum_coeff]
  refine Finset.sum_eq_zero fun j hj => ?_
  rw [coeff_C_mul, coeff_eq_zero_of_natDegree_lt, mul_zero]
  refine locatorProd_natDegree_le.trans_lt ?_
  rw [Finset.card_erase_of_mem hj]
  have := Finset.card_pos.mpr ⟨j, hj⟩
  omega

end

/-! ### The recurrence of the errors (41_rs_fec.md R167 step 3) -/

section

variable {F : Type} [Field F] {φ : Sym → F} (hφ : ReadsSymbols φ) {ι : Type} [DecidableEq ι] {x y : ι → F} {J : Finset ι}

include hφ

/-- From at least `2 * J.card` power sums with non-zero weights the iteration finds the locator polynomial of `J`. -/
theorem berlekampMassey_powerSums (hx : ∀ j, x j ≠ 0) (hinj : Set.InjOn x J) (hy : ∀ j ∈ J, y j ≠ 0) {u : List Sym}
    (hu : ∀ m < u.length, φ (u.getD m 0) = ∑ j ∈ J, y j * x j ^ m) (hlen : 2 * J.card ≤ u.length) :
    lowPoly φ (berlekampMassey u).conn = locatorProd x J ∧ (berlekampMassey u).len = J.card
      ∧ (lowPoly φ (berlekampMassey u).conn).natDegree = J.card := by
  classical
  have hbm := bmInvariant_berlekampMassey hφ u
  have hsums : ∀ m < u.length, (lowPoly φ u).coeff m = ∑ j ∈ J, y j * x j ^ m := fun m hm => by
    rw [hφ.coeff_lowPoly, hu m hm]
  have hknown : Recurrence (lowPoly φ u) (locatorProd x J) J.card u.length := by
    refine ⟨locatorProd_natDegree_le, fun k hlo hk => ?_⟩
    rw [coeff_mul_powerSums hx hsums (locatorProd_natDegree_le.trans hlo) hk]
    exact Finset.sum_eq_zero fun j hj => by rw [eval_locatorProd_inv_of_mem hx hj, mul_zero, zero_mul]
  have hshort := hbm.shortest _ _ hknown locatorProd_coeff_zero
  have hroot : ∀ j ∈ J, (lowPoly φ (berlekampMassey u).conn).eval (x j)⁻¹ = 0 := by
    intro j hj
    have hzero := eq_zero_of_powerSums hinj le_rfl (p := J.card)
      (y := fun j => y j * (lowPoly φ (berlekampMassey u).conn).eval (x j)⁻¹ * x j ^ (berlekampMassey u).len)
      (fun i hi => ?_) j hj
    · exact (mul_eq_zero.mp ((mul_eq_zero.mp hzero).resolve_right (pow_ne_zero _ (hx j)))).resolve_left (hy j hj)
    · have hvanish := hbm.recurrence.vanish ((berlekampMassey u).len + i) (Nat.le_add_right _ _) (by omega)
      rw [coeff_mul_powerSums hx hsums (hbm.recurrence.degree.trans (Nat.le_add_right _ _)) (by omega)] at hvanish
      simpa only [mul_assoc, ← pow_add] using hvanish
  have hconn := eq_locatorProd hx hinj hbm.const (hbm.recurrence.degree.trans hshort) hroot
  have hcard : J.card ≤ (lowPoly φ (berlekampMassey u).conn).natDegree := by
    have hne : lowPoly φ (berlekampMassey u).conn ≠ 0 := fun h => by simpa [h] using hbm.const
    rw [← Finset.card_image_of_injOn fun i hi j hj h => hinj hi hj (inv_injective h)]
    exact card_le_degree_of_subset_roots fun v hv => by
      obtain ⟨j, hj, rfl⟩ := Finset.mem_image.mp hv
      exact (mem_roots hne).mpr (hroot j hj)
  have hdeg := hbm.recurrence.degree
  exact ⟨hconn, by omega, by omega⟩

end

end Sys2Proof.Proofs

/-! Proofs, part 25: the decoder finds every codeword within the bound (O46), and the round trip of a block (O48). -/

namespace Sys2Proof.Proofs

open Sys2Proof Sys2Proof.Machine Sys2Proof.Safety
open Polynomial

-- One theorem after the other: side by side, they ask for more threads than the memory limit allows.
set_option Elab.async false

/-! ### The intermediate results of R167 -/

/-- Step 1: the received word with its erased symbols set to 0. -/
def zeroErased (r : List Sym) (era : List Bool) : List Sym := List.zipWith (fun x e => if e then 0 else x) r era

/-- Step 2: the erasure locator polynomial. -/
def erasurePoly (n : Nat) (era : List Bool) : List Sym := locatorPoly n ((List.range n).filter fun j => era.getD j false)

/-- Step 2: the sequence the iteration runs over. -/
def modifiedSyndromes (p : Nat) (r : List Sym) (era : List Bool) : List Sym :=
  ((polyMul (syndromes p (zeroErased r era)) (erasurePoly r.length era)).take p).drop (erasureCount era)

/-- Step 4: the inverse of the position's locator is a root. -/
def isRootOf (conn : List Sym) (n j : Nat) : Bool := polyEvalLow conn (ginv (locator n j)) == 0

/-- Step 6: the evaluator polynomial. -/
def evaluatorPoly (p : Nat) (r : List Sym) (era : List Bool) (psi : List Sym) : List Sym :=
  (polyMul (syndromes p (zeroErased r era)) psi).take p

/-- Step 7 over the whole word. -/
def correctWord (p : Nat) (r : List Sym) (era : List Bool) (conn : List Sym) : Option (List Sym) :=
  correctFrom r.length (evaluatorPoly p r era (polyMul (erasurePoly r.length era) conn))
    (polyDeriv (polyMul (erasurePoly r.length era) conn)) 0
    (List.zip r (List.zip era ((List.range r.length).map (isRootOf conn r.length))))

/-- The decoder answers where every check of R167 passes. -/
theorem decodeBlock_of_steps {p : Nat} {r c : List Sym} {era : List Bool} {b : BmState}
    (hb : berlekampMassey (modifiedSyndromes p r era) = b) (hdeg : polyDeg b.conn = b.len)
    (hlen : 2 * b.len + erasureCount era ≤ p)
    (hroots : ((List.range r.length).filter (isRootOf b.conn r.length)).length = b.len)
    (hkept : ∀ j < r.length, isRootOf b.conn r.length j = true → era.getD j false = false)
    (hword : correctWord p r era b.conn = some c) (hcode : isCodeword p c = true)
    (hbound : 2 * errorCount r c era + erasureCount era ≤ p) : decodeBlock p r era = some (c, errorCount r c era) := by
  subst hb
  have hany : ((List.range r.length).filter (isRootOf (berlekampMassey (modifiedSyndromes p r era)).conn r.length)).any
      (fun j => era.getD j false) = false := by
    rw [List.any_eq_false]
    intro j hj
    obtain ⟨hmem, hroot⟩ := List.mem_filter.mp hj
    rw [hkept j (List.mem_range.mp hmem) hroot]
    exact Bool.false_ne_true
  unfold decodeBlock
  rw [if_neg (by omega)]
  refine (if_neg (not_or.mpr ⟨not_not.mpr hdeg, not_lt.mpr hlen⟩)).trans ?_
  refine (if_neg (not_or.mpr ⟨not_not.mpr hroots, Bool.eq_false_iff.mp hany⟩)).trans ?_
  dsimp only
  split
  case h_1 hnone => exact absurd (hnone.symm.trans hword) (by simp)
  case h_2 c' hc' =>
    cases hc'.symm.trans hword
    exact if_pos (by simp [hcode, hbound])

/-! ### Lengths and symbols -/

theorem polyAdd_length (f g : List Sym) : (polyAdd f g).length = max f.length g.length := by
  induction f generalizing g with
  | nil => simp [polyAdd]
  | cons a f ih => cases g <;> simp [polyAdd, ih]

theorem le_polyMul_length (f g : List Sym) : f.length ≤ (polyMul f g).length := by
  induction f with
  | nil => exact Nat.zero_le _
  | cons a f ih =>
    rw [polyMul, polyAdd_length]
    exact le_max_of_le_right (Nat.succ_le_succ ih)

theorem modifiedSyndromes_length (p : Nat) (r : List Sym) (era : List Bool) :
    (modifiedSyndromes p r era).length = p - erasureCount era := by
  have hlong := le_polyMul_length (syndromes p (zeroErased r era)) (erasurePoly r.length era)
  rw [syndromes_length] at hlong
  rw [modifiedSyndromes, List.length_drop, List.length_take, min_eq_left hlong]

theorem zeroErased_length {r : List Sym} {era : List Bool} (hera : era.length = r.length) :
    (zeroErased r era).length = r.length := by simp [zeroErased, hera]

theorem zeroErased_getD {r : List Sym} {era : List Bool} (hera : era.length = r.length) {j : Nat} (hj : j < r.length) :
    (zeroErased r era).getD j 0 = if era.getD j false then 0 else r.getD j 0 := by
  simp [zeroErased, hj, hera]

/-- Adding a symbol twice. -/
theorem gadd_gadd_cancel (a b : Sym) : gadd a (gadd b a) = b := by
  rw [gadd_comm b, ← gadd_assoc, gadd_self, zero_gadd]

theorem gadd_eq_zero_iff {a b : Sym} : gadd a b = 0 ↔ a = b := BitVec.xor_eq_zero_iff

/-- What step 7 has to find at each position, and the word it then gives. -/
theorem correctFrom_eq_some {n : Nat} {omega psiDeriv : List Sym} (l : List (Sym × Bool × Bool)) :
    ∀ (c : List Sym) (j : Nat), c.length = l.length →
      (∀ i < l.length, ∀ x e root, l[i]? = some (x, e, root) →
        if e || root then forneyValue n omega psiDeriv (j + i) = some (gadd (c.getD i 0) (if e then 0 else x))
        else x = c.getD i 0) →
      correctFrom n omega psiDeriv j l = some c := by
  induction l with
  | nil => intro c j hc _; rw [List.length_eq_zero_iff.mp hc, correctFrom]
  | cons s l ih =>
    obtain ⟨x, e, root⟩ := s
    intro c j hc hfound
    obtain _ | ⟨y, c⟩ := c
    · cases hc
    · have hrest : correctFrom n omega psiDeriv (j + 1) l = some c := by
        refine ih c (j + 1) (Nat.succ.inj hc) fun i hi x e root hl => ?_
        have hnext := hfound (i + 1) (Nat.succ_lt_succ hi) x e root hl
        rwa [show j + (i + 1) = j + 1 + i by omega] at hnext
      have hhere := hfound 0 (Nat.succ_pos _) x e root rfl
      rw [correctFrom, hrest]
      by_cases hmarked : (e || root) = true
      · rw [if_pos hmarked, Nat.add_zero] at hhere
        rw [if_pos hmarked, hhere]
        exact congrArg (fun z => some (z :: c)) (gadd_gadd_cancel _ y)
      · rw [if_neg hmarked] at hhere
        rw [if_neg hmarked, hhere]
        rfl

/-! ### The positions to correct -/

section

variable {r c : List Sym} {era : List Bool}

/-- The unerased positions that `c` corrects. -/
def errorSet (r c : List Sym) (era : List Bool) : Finset Nat := differing r.length r c \ erasedSet r.length era

/-- The positions the decoder corrects. -/
def correctedSet (r c : List Sym) (era : List Bool) : Finset Nat := erasedSet r.length era ∪ errorSet r c era

/-- What `c` adds at position `j` to the received word without its erased symbols. -/
def errorSym (r c : List Sym) (era : List Bool) (j : Nat) : Sym := gadd (c.getD j 0) ((zeroErased r era).getD j 0)

theorem mem_erasedSet_iff {j : Nat} (hj : j < r.length) : j ∈ erasedSet r.length era ↔ era.getD j false = true := by
  simp only [erasedSet, Finset.mem_filter, Finset.mem_range, hj, true_and]

theorem mem_errorSet_iff {j : Nat} (hj : j < r.length) :
    j ∈ errorSet r c era ↔ era.getD j false = false ∧ r.getD j 0 ≠ c.getD j 0 := by
  rw [errorSet, Finset.mem_sdiff, mem_erasedSet_iff hj, Bool.not_eq_true, differing, Finset.mem_filter, Finset.mem_range]
  tauto

theorem errorSet_subset_range : errorSet r c era ⊆ Finset.range r.length :=
  Finset.sdiff_subset.trans (Finset.filter_subset _ _)

theorem correctedSet_subset_range : correctedSet r c era ⊆ Finset.range r.length :=
  Finset.union_subset (Finset.filter_subset _ _) errorSet_subset_range

theorem disjoint_erasedSet_errorSet : Disjoint (erasedSet r.length era) (errorSet r c era) := Finset.disjoint_sdiff

variable (hera : era.length = r.length)

include hera

theorem errorSym_of_kept {j : Nat} (hj : j < r.length) (he : era.getD j false = false) :
    errorSym r c era j = gadd (c.getD j 0) (r.getD j 0) := by
  rw [errorSym, zeroErased_getD hera hj, if_neg (Bool.eq_false_iff.mp he)]

theorem errorSym_ne_zero {j : Nat} (hj : j ∈ errorSet r c era) : errorSym r c era j ≠ 0 := by
  have hlt := Finset.mem_range.mp (errorSet_subset_range hj)
  obtain ⟨he, hne⟩ := (mem_errorSet_iff hlt).mp hj
  rw [errorSym_of_kept hera hlt he, ne_eq, gadd_eq_zero_iff]
  exact hne.symm

theorem errorSym_eq_zero {j : Nat} (hj : j < r.length) (h : j ∉ correctedSet r c era) : errorSym r c era j = 0 := by
  rw [correctedSet, Finset.mem_union, not_or, mem_erasedSet_iff hj, mem_errorSet_iff hj, Bool.not_eq_true] at h
  obtain ⟨he, herr⟩ := h
  rw [errorSym_of_kept hera hj he, gadd_eq_zero_iff]
  by_contra hne
  exact herr ⟨he, Ne.symm hne⟩

/-- The three counts of the bound `2*e + s <= P` (41_rs_fec.md R159). -/
theorem card_bounds {p : Nat} (hc : withinBound p r era c) : (erasedSet r.length era).card = erasureCount era
    ∧ 2 * (errorSet r c era).card + erasureCount era ≤ p ∧ (correctedSet r c era).card ≤ p := by
  obtain ⟨hclen, -, hbound⟩ := hc
  rw [errorCount_eq_card hclen hera] at hbound
  have hE : (erasedSet r.length era).card = erasureCount era := by rw [erasureCount_eq_card, hera]
  have hunion := Finset.card_union_le (erasedSet r.length era) (errorSet r c era)
  refine ⟨hE, hbound, hunion.trans ?_⟩
  rw [errorSet] at *
  omega

end

/-! ### The steps of R167 on a word with a codeword within the bound -/

section

variable {F : Type} [Field F] {φ : Sym → F} (hφ : ReadsSymbols φ) {p : Nat} {r c : List Sym} {era : List Bool}
  (hera : era.length = r.length) (hn : r.length ≤ 255) (hc : withinBound p r era c)

include hφ

/-- The syndromes are the power sums of what the codeword adds. -/
theorem map_syndrome_zeroErased (hera : era.length = r.length) (hclen : c.length = r.length) (hcode : isCodeword p c = true)
    {i : Nat} (hi : i < p) : φ (syndrome (zeroErased r era) i)
      = ∑ j ∈ correctedSet r c era, φ (errorSym r c era j) * locatorIn φ r.length j ^ i := by
  have hsum := (isCodeword_iff_powerSums hφ p c).mp hcode i hi
  rw [hclen] at hsum
  rw [map_syndrome hφ, zeroErased_length hera, ← zero_add (Finset.sum _ _), ← hsum, ← Finset.sum_add_distrib]
  refine (Finset.sum_subset_zero_on_sdiff correctedSet_subset_range (fun j hj => ?_) fun j _ => ?_).symm
  · obtain ⟨hlt, hnot⟩ := Finset.mem_sdiff.mp hj
    rw [← add_mul, ← hφ.map_gadd]
    change φ (errorSym r c era j) * _ = 0
    rw [errorSym_eq_zero hera (Finset.mem_range.mp hlt) hnot, hφ.map_zero, zero_mul]
  · rw [errorSym, hφ.map_gadd, add_mul]

theorem lowPoly_locatorPoly (n : Nat) (positions : List Nat) :
    lowPoly φ (locatorPoly n positions) = (positions.map fun j => 1 - C (locatorIn φ n j) * X).prod := by
  have hfactor : ∀ j, lowPoly φ [1, locator n j] = 1 - C (locatorIn φ n j) * X := fun j => by
    rw [lowPoly, lowPoly, lowPoly, hφ.map_one, mul_zero, add_zero, C_1, sub_eq_add_neg, ← neg_mul, ← C_neg,
      hφ.neg_eq, mul_comm]
    rfl
  have hfold : ∀ f : List Sym, lowPoly φ (positions.foldl (fun p j => polyMul p [1, locator n j]) f)
      = lowPoly φ f * (positions.map fun j => 1 - C (locatorIn φ n j) * X).prod := by
    induction positions with
    | nil => intro f; simp
    | cons j positions ih =>
      intro f
      rw [List.foldl_cons, ih, hφ.lowPoly_polyMul, hfactor, List.map_cons, List.prod_cons, mul_assoc]
  rw [locatorPoly, hfold, lowPoly, lowPoly, hφ.map_one, mul_zero, add_zero, C_1, one_mul]

theorem lowPoly_erasurePoly (n : Nat) (era : List Bool) :
    lowPoly φ (erasurePoly n era) = locatorProd (locatorIn φ n) (erasedSet n era) := by
  have hset : ((List.range n).filter fun j => era.getD j false).toFinset = erasedSet n era := by
    ext j
    simp [erasedSet]
  rw [erasurePoly, lowPoly_locatorPoly hφ, ← List.prod_toFinset _ (List.nodup_range.filter _), hset]
  rfl

/-- The erasure locators do not vanish at an error. -/
theorem eval_erasureLocators_ne_zero (hn : r.length ≤ 255) {j : Nat} (hj : j ∈ errorSet r c era) :
    (locatorProd (locatorIn φ r.length) (erasedSet r.length era)).eval (locatorIn φ r.length j)⁻¹ ≠ 0 := by
  refine eval_locatorProd_inv_ne_zero (locatorIn_ne_zero hφ _) fun i hi heq => ?_
  have hij := locatorIn_injOn hφ hn (Finset.mem_coe.mpr (Finset.filter_subset _ _ hi))
    (Finset.mem_coe.mpr (errorSet_subset_range hj)) heq
  exact Finset.disjoint_left.mp disjoint_erasedSet_errorSet hi (hij ▸ hj)

include hera hc

theorem coeff_syndromes_zeroErased (k : Nat) : (lowPoly φ (syndromes p (zeroErased r era))).coeff k
    = if k < p then ∑ j ∈ correctedSet r c era, φ (errorSym r c era j) * locatorIn φ r.length j ^ k else 0 := by
  obtain ⟨hclen, hcode, -⟩ := hc
  rw [hφ.coeff_syndromes]
  split_ifs with hk
  · exact map_syndrome_zeroErased hφ hera hclen hcode hk
  · rfl

/-- Multiplying by the erasure locators leaves the errors alone in the sequence. -/
theorem map_modifiedSyndromes {m : Nat} (hm : m < p - erasureCount era) :
    φ ((modifiedSyndromes p r era).getD m 0)
      = ∑ j ∈ errorSet r c era, φ (errorSym r c era j)
          * (locatorProd (locatorIn φ r.length) (erasedSet r.length era)).eval (locatorIn φ r.length j)⁻¹
          * locatorIn φ r.length j ^ erasureCount era * locatorIn φ r.length j ^ m := by
  obtain ⟨hE, -, -⟩ := card_bounds hera hc
  rw [← hφ.coeff_lowPoly, modifiedSyndromes, hφ.coeff_lowPoly_drop, hφ.coeff_lowPoly_take, if_pos (by omega),
    hφ.lowPoly_polyMul, mul_comm, lowPoly_erasurePoly hφ]
  rw [coeff_mul_powerSums (n := p) (K := correctedSet r c era) (locatorIn_ne_zero hφ r.length)
    (fun k hk => (coeff_syndromes_zeroErased hφ hera hc k).trans (if_pos hk))
    (locatorProd_natDegree_le.trans (by omega)) (by omega)]
  rw [correctedSet, Finset.sum_union disjoint_erasedSet_errorSet, Finset.sum_eq_zero fun j hj => ?_, zero_add]
  · exact Finset.sum_congr rfl fun j _ => by rw [pow_add, mul_assoc _ (_ ^ _) (_ ^ _)]
  · rw [eval_locatorProd_inv_of_mem (locatorIn_ne_zero hφ _) hj, mul_zero, zero_mul]

/-- Step 6: the evaluator, by the key equation. -/
theorem lowPoly_evaluatorPoly {psi : List Sym}
    (hpsi : lowPoly φ psi = locatorProd (locatorIn φ r.length) (correctedSet r c era)) :
    lowPoly φ (evaluatorPoly p r era psi)
      = evaluator (locatorIn φ r.length) (fun j => φ (errorSym r c era j)) (correctedSet r c era) := by
  obtain ⟨-, -, hcard⟩ := card_bounds hera hc
  ext i
  rw [evaluatorPoly, hφ.coeff_lowPoly_take, hφ.lowPoly_polyMul, hpsi]
  split_ifs with hi
  · exact coeff_mul_locatorProd (coeff_syndromes_zeroErased hφ hera hc) hi
  · exact (coeff_evaluator_of_le (by omega)).symm

include hn

/-- Step 3: the iteration finds the error locators. -/
theorem berlekampMassey_errors :
    lowPoly φ (berlekampMassey (modifiedSyndromes p r era)).conn = locatorProd (locatorIn φ r.length) (errorSet r c era)
      ∧ (berlekampMassey (modifiedSyndromes p r era)).len = (errorSet r c era).card
      ∧ polyDeg (berlekampMassey (modifiedSyndromes p r era)).conn = (errorSet r c era).card := by
  obtain ⟨-, hbound, -⟩ := card_bounds hera hc
  have hlength := modifiedSyndromes_length p r era
  obtain ⟨hconn, hlen, hdeg⟩ := berlekampMassey_powerSums hφ (locatorIn_ne_zero hφ r.length)
    ((locatorIn_injOn hφ hn).mono (Finset.coe_subset.mpr errorSet_subset_range))
    (fun j hj => mul_ne_zero (mul_ne_zero (mt hφ.map_eq_zero_iff.mp (errorSym_ne_zero hera hj))
      (eval_erasureLocators_ne_zero hφ hn hj)) (pow_ne_zero _ (locatorIn_ne_zero hφ r.length j)))
    (fun m hm => map_modifiedSyndromes hφ hera hc (hlength ▸ hm)) (by omega)
  exact ⟨hconn, hlen, (hφ.polyDeg_eq_natDegree _).trans hdeg⟩

/-- Step 4: the roots are the errors. -/
theorem isRootOf_iff {j : Nat} (hj : j < r.length) :
    isRootOf (berlekampMassey (modifiedSyndromes p r era)).conn r.length j = true ↔ j ∈ errorSet r c era := by
  obtain ⟨hconn, -, -⟩ := berlekampMassey_errors hφ hera hn hc
  rw [isRootOf, beq_iff_eq, ← hφ.map_eq_zero_iff, hφ.map_polyEvalLow, hconn, hφ.map_ginv]
  refine ⟨fun h => ?_, eval_locatorProd_inv_of_mem (locatorIn_ne_zero hφ _)⟩
  by_contra hnot
  refine eval_locatorProd_inv_ne_zero (x := locatorIn φ r.length) (locatorIn_ne_zero hφ _) (fun i hi heq => ?_) h
  exact hnot (locatorIn_injOn hφ hn (Finset.mem_coe.mpr (errorSet_subset_range hi)) (by simpa using hj) heq ▸ hi)

theorem roots_length :
    ((List.range r.length).filter (isRootOf (berlekampMassey (modifiedSyndromes p r era)).conn r.length)).length
      = (errorSet r c era).card := by
  rw [length_filter_range_eq_card]
  congr 1
  ext j
  rw [Finset.mem_filter, Finset.mem_range]
  exact ⟨fun ⟨hj, h⟩ => (isRootOf_iff hφ hera hn hc hj).mp h, fun h =>
    have hj := Finset.mem_range.mp (errorSet_subset_range h)
    ⟨hj, (isRootOf_iff hφ hera hn hc hj).mpr h⟩⟩

/-- Step 5: the locators of the erasures and of the errors together. -/
theorem lowPoly_psi :
    lowPoly φ (polyMul (erasurePoly r.length era) (berlekampMassey (modifiedSyndromes p r era)).conn)
      = locatorProd (locatorIn φ r.length) (correctedSet r c era) := by
  obtain ⟨hconn, -, -⟩ := berlekampMassey_errors hφ hera hn hc
  rw [hφ.lowPoly_polyMul, hconn, lowPoly_erasurePoly hφ]
  exact (Finset.prod_union disjoint_erasedSet_errorSet).symm

/-- Step 7: Forney's formula gives what the codeword adds. -/
theorem forneyValue_eq {psi : List Sym} (hpsi : lowPoly φ psi = locatorProd (locatorIn φ r.length) (correctedSet r c era))
    {j : Nat} (hj : j ∈ correctedSet r c era) :
    forneyValue r.length (evaluatorPoly p r era psi) (polyDeriv psi) j = some (errorSym r c era j) := by
  have hx := locatorIn_ne_zero hφ r.length
  have hderiv : φ (polyEvalLow (polyDeriv psi) (ginv (locator r.length j)))
      = locatorIn φ r.length j
        * (locatorProd (locatorIn φ r.length) ((correctedSet r c era).erase j)).eval (locatorIn φ r.length j)⁻¹ := by
    rw [hφ.map_polyEvalLow, hφ.lowPoly_polyDeriv, hpsi, hφ.map_ginv]
    exact (eval_derivative_locatorProd hx hj).trans (hφ.neg_eq _)
  have hothers : (locatorProd (locatorIn φ r.length) ((correctedSet r c era).erase j)).eval (locatorIn φ r.length j)⁻¹ ≠ 0 := by
    refine eval_locatorProd_inv_ne_zero hx fun i hi heq => (Finset.ne_of_mem_erase hi) ?_
    exact locatorIn_injOn hφ hn (Finset.mem_coe.mpr (correctedSet_subset_range (Finset.mem_of_mem_erase hi)))
      (Finset.mem_coe.mpr (correctedSet_subset_range hj)) heq
  have hden : polyEvalLow (polyDeriv psi) (ginv (locator r.length j)) ≠ 0 := by
    rw [ne_eq, ← hφ.map_eq_zero_iff, hderiv]
    exact mul_ne_zero (hx j) hothers
  have hnum : φ (polyEvalLow (evaluatorPoly p r era psi) (ginv (locator r.length j))) = φ (errorSym r c era j)
      * (locatorProd (locatorIn φ r.length) ((correctedSet r c era).erase j)).eval (locatorIn φ r.length j)⁻¹ := by
    rw [hφ.map_polyEvalLow, lowPoly_evaluatorPoly hφ hera hc hpsi, hφ.map_ginv]
    exact eval_evaluator hx hj
  simp only [forneyValue, if_neg hden]
  refine congrArg some (hφ.injective ?_)
  rw [hφ.map_gmul, hφ.map_gmul, hφ.map_ginv, hderiv, hnum]
  exact mul_mul_inv_cancel (hx j) hothers

/-- Step 7 over the whole word gives the codeword. -/
theorem correctWord_eq :
    correctWord p r era (berlekampMassey (modifiedSyndromes p r era)).conn = some c := by
  refine correctFrom_eq_some _ c 0 (by simp [hera, hc.1]) fun i hi x e root hl => ?_
  have hlt : i < r.length := by simpa [hera] using hi
  obtain ⟨hxr, her, hroot⟩ : r.getD i 0 = x ∧ era.getD i false = e
      ∧ isRootOf (berlekampMassey (modifiedSyndromes p r era)).conn r.length i = root := by
    simpa [hlt, hera] using hl
  rw [Nat.zero_add]
  have hmem : (e || root) = true ↔ i ∈ correctedSet r c era := by
    rw [correctedSet, Finset.mem_union, mem_erasedSet_iff hlt, her, ← isRootOf_iff hφ hera hn hc hlt, hroot, Bool.or_eq_true]
  by_cases hmarked : (e || root) = true
  · rw [if_pos hmarked, forneyValue_eq hφ hera hn hc (lowPoly_psi hφ hera hn hc) (hmem.mp hmarked), errorSym,
      zeroErased_getD hera hlt, her, hxr]
  · rw [if_neg hmarked]
    have hzero := errorSym_eq_zero (c := c) hera hlt (mt hmem.mpr hmarked)
    have hkept : era.getD i false = false := by
      rw [her]
      exact (Bool.or_eq_false_iff.mp (Bool.eq_false_iff.mpr hmarked)).1
    rw [errorSym_of_kept hera hlt hkept, gadd_eq_zero_iff] at hzero
    exact hxr.symm.trans hzero.symm

end

/-- Every codeword within the bound is found. -/
theorem decodeBlock_complete {p : Nat} {r c : List Sym} {era : List Bool} (hera : era.length = r.length)
    (hn : r.length ≤ 255) (hc : withinBound p r era c) : decodeBlock p r era = some (c, errorCount r c era) := by
  obtain ⟨F, _, φ, hφ⟩ := exists_readsSymbols
  obtain ⟨-, hlen, hdeg⟩ := berlekampMassey_errors hφ hera hn hc
  obtain ⟨-, hbound, -⟩ := card_bounds hera hc
  refine decodeBlock_of_steps rfl (hdeg.trans hlen.symm) (by rw [hlen]; exact hbound)
    ((roots_length hφ hera hn hc).trans hlen.symm) (fun j hj hroot => ?_) (correctWord_eq hφ hera hn hc) hc.2.1 hc.2.2
  exact ((mem_errorSet_iff hj).mp ((isRootOf_iff hφ hera hn hc hj).mp hroot)).1

/-- Settles O46. -/
theorem decoderComputesTheBoundedCodeword : Obligations.DecoderComputesTheBoundedCodeword := by
  unfold Obligations.DecoderComputesTheBoundedCodeword
  intro p r era hera _ hn c e
  exact ⟨withinBound_of_decodeBlock hera, fun ⟨hc, he⟩ => he ▸ decodeBlock_complete hera hn hc⟩

/-! ### The round trip of a block (41_rs_fec.md R164 (c)) -/

/-- An uncorrupted codeword is its own decoding. -/
theorem decodeBlock_of_isCodeword {p : Nat} {c : List Sym} (hn : c.length ≤ 255) (hcode : isCodeword p c = true) :
    decodeBlock p c (List.replicate c.length false) = some (c, 0) := by
  have herrors : errorCount c c (List.replicate c.length false) = 0 := by
    rw [errorCount_eq_card rfl List.length_replicate, differing, Finset.filter_false_of_mem (by simp), Finset.empty_sdiff,
      Finset.card_empty]
  have herasures : erasureCount (List.replicate c.length false) = 0 := by simp [erasureCount]
  have hdec := decodeBlock_complete List.length_replicate hn
    (⟨rfl, hcode, by omega⟩ : withinBound p c (List.replicate c.length false) c)
  rwa [herrors] at hdec

/-- `RS_ENC` ends with `OK` only where all its checks pass. -/
theorem rsEnc_ok {k : BitVec 8} {s t : State} (h : exec (.rsEnc k) s = .next t) (hok : t.ctl.status = 0) :
    s.rsu.ilv = false ∧ k ≠ 0 ∧ k.toNat + parityOf s k ≤ 255 ∧ s.rsu.cwLen.toNat = k.toNat := by
  have hilv : s.rsu.ilv = false := by
    by_contra hne
    exact exec_ne_of_ok h hok (by decide) (exec_rsEnc_of_ilv (Bool.eq_true_of_not_eq_false hne))
  by_contra hbad
  refine exec_ne_of_ok h hok (by decide) (exec_rsEnc_of_wrong hilv ?_)
  by_contra hgood
  simp only [not_or, not_lt, not_not] at hgood
  exact hbad ⟨hilv, hgood⟩

/-- Writing a run again changes nothing. -/
theorem get?_writeList_again {w : Nat} (m : Mem w) (base : Nat) (vs : List (BitVec w)) (a : Nat)
    (h : ∀ j < vs.length, Mem.get? m (base + j) = vs[j]?) : Mem.get? (Mem.writeList m base vs) a = Mem.get? m a := by
  by_cases hin : base ≤ a ∧ a < base + vs.length
  · obtain ⟨j, rfl⟩ := Nat.exists_eq_add_of_le hin.1
    rw [Mem.get?_writeList_inside _ _ _ _ (by omega), h j (by omega)]
  · exact Mem.get?_writeList_outside _ _ _ _ (by omega)

section

variable {k : BitVec 8} {s : State}

/-- The buffer after `RS_ENC` holds the codeword of the data. -/
theorem get?_encodedRsu_cw (hw : blockWritten s) (hlen : s.rsu.cwLen.toNat = k.toNat) {j : Nat}
    (hj : j < k.toNat + parityOf s k) :
    Mem.get? (encodedRsu s k).cw j = (encodeBlock (parityOf s k) (cwSymbols s k.toNat))[j]? := by
  have hbound : cwBound s = k.toNat := cwBound_eq (Nat.le_of_lt_succ k.isLt) hlen
  change Mem.get? (Mem.writeList _ _ _) j = _
  obtain hdata | hparity := lt_or_ge j k.toNat
  · rw [Mem.get?_writeList_outside _ _ _ _ (.inl hdata), encodeBlock,
      List.getElem?_append_left (by simpa [cwSymbols] using hdata), cwSymbols_getElem? s hdata]
    exact (get?_of_blockWritten hw (hbound.symm ▸ hdata)).1
  · obtain ⟨i, rfl⟩ := Nat.exists_eq_add_of_le hparity
    have hlong := paritySymbols_length (parityOf s k) (cwSymbols s k.toNat) (parityCount_pos _ _)
    rw [Mem.get?_writeList_inside _ _ _ _ (by omega), encodeBlock, List.getElem?_append_right (by simp [cwSymbols])]
    simp [cwSymbols_length]

theorem get?_encodedRsu_era {j : Nat} (hj : j < k.toNat + parityOf s k) :
    Mem.get? (encodedRsu s k).era j = some 0 := by
  have hget := get?_writeList_zero s.rsu.era (List.replicate (k.toNat + parityOf s k) (0 : BitVec 1)) (j := j) (by simpa)
  rwa [List.getElem?_replicate, if_pos hj] at hget

end

/-- A word that a state's buffer holds is what its commands read. -/
theorem cwSymbols_of_stored {t : State} {code : List Sym} (h : ∀ j < code.length, Mem.get? t.rsu.cw j = code[j]?) :
    cwSymbols t code.length = code := by
  refine List.ext_getElem (cwSymbols_length t _) fun j _ hj => ?_
  have hread : readCw t j = code[j] :=
    readCell_of_get? .cw t t.rsu.cw j code[j] ((h j hj).trans (List.getElem?_eq_getElem hj))
  simpa [cwSymbols] using hread

theorem eraMarks_of_unmarked {t : State} {n : Nat} (h : ∀ j < n, Mem.get? t.rsu.era j = some 0) :
    eraMarks t n = List.replicate n false := by
  refine List.eq_replicate_iff.mpr ⟨eraMarks_length t n, fun b hb => ?_⟩
  obtain ⟨j, hj, rfl⟩ := List.mem_map.mp hb
  rw [readEra, readCell_of_get? _ _ _ _ _ (h j (List.mem_range.mp hj))]
  rfl

/-- `RS_DEC` of an unmarked codeword changes no cell. -/
theorem rsDec_of_codeword {k : BitVec 8} {t : State} {code : List Sym} (hilv : t.rsu.ilv = false) (hk : k ≠ 0)
    (hfit : code.length ≤ 255) (hclen : code.length = k.toNat + parityOf t k) (hlen : t.rsu.cwLen.toNat = code.length)
    (hcode : isCodeword (parityOf t k) code = true) (hcw : ∀ j < code.length, Mem.get? t.rsu.cw j = code[j]?)
    (hera : ∀ j < code.length, Mem.get? t.rsu.era j = some 0) :
    ∃ u, exec (.rsDec k) t = .next u ∧ u.rsp = some 0 ∧ u.rsu.cwOk = true ∧ u.rsu.cwLen = t.rsu.cwLen
      ∧ ∀ a, Mem.get? u.rsu.cw a = Mem.get? t.rsu.cw a ∧ Mem.get? u.rsu.era a = Mem.get? t.rsu.era a := by
  have hmarks := eraMarks_of_unmarked hera
  have hdec : decodedBlock t k = some (code, 0) := by
    rw [decodedBlock, ← hclen, cwSymbols_of_stored hcw, hmarks]
    exact decodeBlock_of_isCodeword hfit hcode
  refine ⟨_, exec_rsDec_of_some hilv (wrongCount_of_right hk (hclen ▸ hfit) (hlen.trans hclen)) hdec, ?_, rfl, rfl,
    fun a => ⟨get?_writeList_again _ 0 code a fun j hj => ?_, get?_writeList_again _ 0 _ a fun j hj => ?_⟩⟩
  · rw [← hclen, hmarks]
    simp [settled, erasureCount]
  · rw [Nat.zero_add]
    exact hcw j hj
  · rw [List.length_replicate] at hj
    rw [Nat.zero_add, List.getElem?_replicate, if_pos hj]
    exact hera j (hclen ▸ hj)

/-- Settles O48: the buffer holds the codeword of the data, unmarked, and the decoder gives it back. -/
theorem encodeThenDecodeKeepsTheBlock : Obligations.EncodeThenDecodeKeepsTheBlock := by
  unfold Obligations.EncodeThenDecodeKeepsTheBlock
  intro k s t hw h hok
  obtain ⟨hilv, hk, hfit, hlen⟩ := rsEnc_ok h hok
  cases h.symm.trans (exec_rsEnc_of_right hilv (not_or.mpr ⟨hk, not_or.mpr ⟨not_lt.mpr hfit, not_not.mpr hlen⟩⟩))
  have hp : 0 < parityOf s k := parityCount_pos _ _
  have hclen : (encodeBlock (parityOf s k) (cwSymbols s k.toNat)).length = k.toNat + parityOf s k := by
    rw [encodeBlock_length _ _ hp, cwSymbols_length]
  refine rsDec_of_codeword hilv hk (hclen ▸ hfit) hclen ?_ (isCodeword_encodeBlock hp _)
    (fun j hj => get?_encodedRsu_cw hw hlen (hclen ▸ hj)) (fun j hj => get?_encodedRsu_era (hclen ▸ hj))
  rw [hclen]
  exact Nat.mod_eq_of_lt (by omega)

end Sys2Proof.Proofs

/-! Proofs, part 26: the commands that write or read one element (O26, O27, O28), and the header checksum (O54). -/

namespace Sys2Proof.Proofs

open Sys2Proof Sys2Proof.Machine Sys2Proof.Safety

-- One theorem after the other: side by side, they ask for more threads than the memory limit allows.
set_option Elab.async false

/-! ### The index check -/

section

variable {i bound : Nat} {s t u : State}

theorem addressError_of_le (h : bound ≤ i) :
    (.next (if bound ≤ i then raise .addressError 0 0 s else t) : Result) = .next (settled 0x11 0 0 s) := by
  rw [if_pos h]
  rfl

theorem next_of_lt (h : i < bound) (ht : t = u) :
    (.next (if bound ≤ i then raise .addressError 0 0 s else t) : Result) = .next u := by
  rw [if_neg (not_le.mpr h), ht]

/-- A value that is no index of the current palette is refused (42_frame_marker.md R200, R202). -/
theorem configError_of_le {v palette : Nat} (hv : palette ≤ v) :
    (if palette ≤ v then raise .configError 0 0 s else t) = settled 0x12 0 0 s := by
  rw [if_pos hv]
  rfl

end

/-! ### One module, one byte, one sample -/

/-- The operand bits of `TMPL_WR` as one number. -/
theorem tmplWr_operand :
    ∀ (resv : BitVec 1) (tval : BitVec 3), (0#28 ++ resv ++ tval : BitVec 32) = BitVec.ofNat 32 (tval.toNat + 8 * resv.toNat) := by
  decide

theorem tmplElement_eq_ofNat :
    ∀ (resv : BitVec 1) (tval : BitVec 3), tmplElement resv tval = BitVec.ofNat 4 (tval.toNat + 8 * resv.toNat) := by
  decide

/-- Settles O26: the index is checked first, then the value. -/
theorem gridAndTemplateWritesStoreOneModule : Obligations.GridAndTemplateWritesStoreOneModule := by
  unfold Obligations.GridAndTemplateWritesStoreOneModule
  intro idx val resv s
  refine ⟨hasWord_of_encode rfl, hasWord_of_encode (congrArg (commandWord 0x22 _) (tmplWr_operand resv val)),
    fun hi => ⟨addressError_of_le hi, addressError_of_le hi⟩,
    fun hi hv => ⟨next_of_lt hi (configError_of_le hv), next_of_lt hi (configError_of_le hv)⟩,
    fun hi hv => ⟨⟨_, storedOne_write _ _ val, next_of_lt hi ?_⟩, ⟨_, storedOne_write _ _ _, next_of_lt hi ?_⟩⟩⟩
  · exact if_neg (not_le.mpr hv)
  · rw [← tmplElement_eq_ofNat]
    exact if_neg (not_le.mpr hv)

/-- Settles O27. -/
theorem byteAndSampleWritesStoreOneElement : Obligations.ByteAndSampleWritesStoreOneElement := by
  unfold Obligations.ByteAndSampleWritesStoreOneElement
  intro idx byte val s
  exact ⟨hasWord_of_encode rfl, hasWord_of_encode rfl, hasWord_of_encode rfl,
    addressError_of_le, addressError_of_le, addressError_of_le,
    fun hi => ⟨_, storedOne_write _ _ byte, next_of_lt hi rfl⟩,
    fun hi => ⟨_, storedOne_write _ _ val, next_of_lt hi rfl⟩,
    fun hi => ⟨_, storedOne_write _ _ val, next_of_lt hi rfl⟩⟩

/-- Settles O28: the element answered is what `readCell` gives, the written one where one was written. -/
theorem bufferReadsGiveTheStoredElement : Obligations.BufferReadsGiveTheStoredElement := by
  unfold Obligations.BufferReadsGiveTheStoredElement
  intro idx s
  exact ⟨⟨hasWord_of_encode rfl, hasWord_of_encode rfl, hasWord_of_encode rfl, hasWord_of_encode rfl, hasWord_of_encode rfl⟩,
    fun hi => ⟨addressError_of_le hi, addressError_of_le hi⟩,
    addressError_of_le, addressError_of_le, addressError_of_le,
    fun hi => ⟨⟨readGrid s idx.toNat, readCell_of_get? _ _ _ _, next_of_lt hi rfl⟩,
      ⟨readTmpl s idx.toNat, readCell_of_get? _ _ _ _, next_of_lt hi rfl⟩⟩,
    fun hi => ⟨readFbuf s idx.toNat, readCell_of_get? _ _ _ _, next_of_lt hi rfl⟩,
    fun hi => ⟨readAbuf s idx.toNat, readCell_of_get? _ _ _ _, next_of_lt hi rfl⟩,
    fun hi => ⟨readPtmpl s idx.toNat, readCell_of_get? _ _ _ _, next_of_lt hi rfl⟩⟩

/-! ### The header checksum (42_frame_marker.md R207) -/

/-- Nothing is subtracted while no 1 leaves the register. -/
theorem foldl_crcShift_eq_shiftLeft {c : BitVec 16} {n : Nat} (h : c.toNat * 2 ^ n < 2 ^ 16) :
    (List.range n).foldl (fun c _ => crcShift c) c = c <<< n := by
  induction n with
  | zero => simp
  | succ n ih =>
    have hlt : c.toNat * 2 ^ n < 2 ^ 15 := by rw [pow_succ, ← mul_assoc] at h; omega
    have htop : (c <<< n).getLsbD 15 = false := by
      have hval : (c <<< n).toNat < 2 ^ 15 := by
        rw [BitVec.toNat_shiftLeft, Nat.shiftLeft_eq]
        exact (Nat.mod_le _ _).trans_lt hlt
      exact Nat.testBit_lt_two_pow hval
    rw [List.range_succ, List.foldl_append, ih (by omega), List.foldl_cons, List.foldl_nil, crcShift, htop, BitVec.shiftLeft_add]
    rfl

/-- A byte is added to the register's high half. -/
theorem getLsbD_xor_byte (c : BitVec 16) (n i : Nat) (hi : i < 16) :
    (c ^^^ ((BitVec.ofNat 8 n).setWidth 16 <<< 8)).getLsbD i = (c.getLsbD i ^^ (!decide (i < 8) && n.testBit (i - 8))) := by
  have hbyte : i - 8 < 8 := by omega
  have hword : i - 8 < 16 := by omega
  rw [BitVec.getLsbD_xor, BitVec.getLsbD_shiftLeft, BitVec.getLsbD_setWidth, BitVec.getLsbD_ofNat]
  simp [hi, hbyte, hword]

/-- The high byte cancels the register's high half, and the low half moves up. -/
theorem crcByte_high (c : BitVec 16) : crcByte c (BitVec.ofNat 8 (c.toNat >>> 8)) = c <<< 8 := by
  have hlow : c ^^^ ((BitVec.ofNat 8 (c.toNat >>> 8)).setWidth 16 <<< 8) = (c.setWidth 8).setWidth 16 := by
    refine BitVec.eq_of_getLsbD_eq fun i hi => ?_
    rw [getLsbD_xor_byte c _ i hi]
    obtain hlt | hle := Nat.lt_or_ge i 8
    · simp [hi, hlt]
    · simp [Nat.not_lt.mpr hle, BitVec.testBit_toNat, Nat.add_sub_of_le hle]
  have hsmall : ((c.setWidth 8).setWidth 16).toNat * 2 ^ 8 < 2 ^ 16 := by
    have hbyte := (c.setWidth 8).isLt
    rw [BitVec.toNat_setWidth_of_le (by decide)]
    omega
  rw [crcByte, hlow, foldl_crcShift_eq_shiftLeft hsmall]
  refine BitVec.eq_of_getLsbD_eq fun i hi => ?_
  have hbyte : i - 8 < 8 := by omega
  have hword : i - 8 < 16 := by omega
  simp [hi, hbyte, hword]

/-- The low byte cancels what is left. -/
theorem crcByte_low (c : BitVec 16) : crcByte (c <<< 8) (BitVec.ofNat 8 c.toNat) = 0 := by
  have hzero : (c <<< 8) ^^^ ((BitVec.ofNat 8 c.toNat).setWidth 16 <<< 8) = 0 := by
    refine BitVec.eq_of_getLsbD_eq fun i hi => ?_
    rw [getLsbD_xor_byte _ _ i hi]
    have hword : i - 8 < 16 := by omega
    simp [hi, hword, BitVec.testBit_toNat]
  rw [crcByte, hzero, foldl_crcShift_eq_shiftLeft (by decide)]
  rfl

theorem crc16_append_checksum (bytes : List Byte) : crc16 (bytes ++ bytesBe (crc16 bytes).toNat 2) = 0 := by
  have hbytes : bytesBe (crc16 bytes).toNat 2
      = [BitVec.ofNat 8 ((crc16 bytes).toNat >>> 8), BitVec.ofNat 8 (crc16 bytes).toNat] := rfl
  calc crc16 (bytes ++ bytesBe (crc16 bytes).toNat 2)
      = crcByte (crcByte (crc16 bytes) (BitVec.ofNat 8 ((crc16 bytes).toNat >>> 8)))
          (BitVec.ofNat 8 (crc16 bytes).toNat) := by rw [crc16, List.foldl_append, hbytes]; rfl
    _ = 0 := by rw [crcByte_high, crcByte_low]

/-- Settles O54. -/
theorem checksumLeavesNoResidue : Obligations.ChecksumLeavesNoResidue := by
  unfold Obligations.ChecksumLeavesNoResidue
  exact ⟨by decide +kernel, by decide +kernel, by decide +kernel, by decide +kernel, crc16_append_checksum⟩

end Sys2Proof.Proofs

/-! Proofs, part 27: the grid as the frame rules see it, the finder (O29) and the stages of `FR_PARSE` (O30). -/

namespace Sys2Proof.Proofs

open Sys2Proof Sys2Proof.Machine Sys2Proof.Safety

-- One theorem after the other: side by side, they ask for more threads than the memory limit allows.
set_option Elab.async false

/-! ### The model's geometry is that of 42_frame_marker.md R206 -/

theorem tmplResv_eq : ∀ e : BitVec 4, tmplResv e = decide (8 ≤ e.toNat) := by decide

theorem tmplTval_toNat : ∀ e : BitVec 4, (tmplTval e).toNat = e.toNat % 8 := by decide

theorem gridBound_eq_sq (s : State) : gridBound s = s.fmu.gridN.toNat ^ 2 := (sq _).symm

theorem geom_resv (s : State) : (geom s).resv = reservedCells s := by
  simp only [geom, reservedCells, tmplResv_eq, gridBound_eq_sq]

theorem geom_m (s : State) : (geom s).m = payloadCells s := by
  simp only [geom, payloadCells, tmplResv_eq, gridBound_eq_sq, ← decide_not, not_le]

theorem geom_b (s : State) : (geom s).b = s.fmu.palBits.toNat := rfl

theorem geom_tmplOk_iff (s : State) : (geom s).tmplOk = true ↔ templateFits s := by
  have hdef : (geom s).tmplOk = (geom s).resv.all fun i => decide ((tmplTval (readTmpl s i)).toNat < paletteBound s) := rfl
  rw [hdef, geom_resv]
  simp only [List.all_eq_true, decide_eq_true_eq, tmplTval_toNat]
  rfl

theorem geom_gridOk_iff (s : State) : (geom s).gridOk = true ↔ gridFits s := by
  have hdef : (geom s).gridOk = (List.range (gridBound s)).all fun i => decide ((readGrid s i).toNat < paletteBound s) := rfl
  rw [hdef, gridBound_eq_sq]
  simp only [List.all_eq_true, decide_eq_true_eq, List.mem_range]
  rfl

theorem rcnt_geom (s : State) : rcnt (geom s) = (reservedCells s).length := by rw [rcnt, geom_resv]

theorem capBits_geom (s : State) : capBits (geom s) = capacity s := by rw [capBits, geom_m, geom_b, capacity]

theorem availBytes_geom (s : State) : availBytes (geom s) = (capacity s - 72) / 8 := by rw [availBytes, capBits_geom]

theorem gridBits_geom (s : State) : gridBits (geom s) s = gridSequence s := by rw [gridBits, geom_m, geom_b, gridSequence]

theorem score_geom (s : State) : score (geom s) s = finderScore s := by
  have hsame : ∀ i, (readGrid s i == tmplTval (readTmpl s i)) = ((readGrid s i).toNat == (readTmpl s i).toNat % 8) := by
    intro i
    rw [← tmplTval_toNat, Bool.eq_iff_iff, beq_iff_eq, beq_iff_eq, BitVec.toNat_inj]
  simp only [score, geom_resv, hsame, finderScore]

theorem finderDetected_iff (s : State) : finderDetected s ↔ ¬ s.fmu.findTol.toNat < missCount (geom s) s := by
  rw [missCount, rcnt_geom, score_geom, finderDetected]
  omega

/-- The two checks of `geom()` that `FR_DETECT` and `FR_PARSE` make. -/
theorem geom_refused_iff (s : State) : (!(geom s).tmplOk || !(geom s).gridOk) = true ↔ ¬ (templateFits s ∧ gridFits s) := by
  rw [← geom_tmplOk_iff, ← geom_gridOk_iff, ← Bool.not_and, Bool.not_eq_true', ← Bool.not_eq_true, Bool.and_eq_true]

/-! ### `FR_DETECT` (R213) -/

/-- The state with this candidate's counts in `FR_RCNT` and `FR_SCORE`. -/
def scoredState (s : State) : State :=
  { s with fmu := { s.fmu with
      frRcnt := BitVec.ofNat 16 (reservedCells s).length, frScore := BitVec.ofNat 16 (finderScore s) } }

theorem recordScore_geom (s : State) : recordScore (geom s) s = scoredState s := by
  rw [recordScore, rcnt_geom, score_geom, scoredState]

theorem exec_frDetect_of_refused {s : State} (h : ¬ (templateFits s ∧ gridFits s)) :
    exec .frDetect s = .next (settled 0x12 0 0 s) := by
  have hbad := (geom_refused_iff s).mpr h
  simp only [exec, execFrDetect, if_pos hbad]
  rfl

section

variable {s : State} (hfits : templateFits s ∧ gridFits s)

include hfits

theorem exec_frDetect_of_detected (hd : finderDetected s) :
    exec .frDetect s = .next (settled 0x00 (BitVec.ofNat 24 (reservedCells s).length) (BitVec.ofNat 32 (finderScore s))
      (scoredState s)) := by
  have hgood := mt (geom_refused_iff s).mp (not_not.mpr hfits)
  simp only [exec, execFrDetect, if_neg hgood, if_neg ((finderDetected_iff s).mp hd), recordScore_geom, rcnt_geom, score_geom]
  rfl

theorem exec_frDetect_of_not_detected (hd : ¬ finderDetected s) :
    exec .frDetect s = .next (settled 0x03 (BitVec.ofNat 24 (reservedCells s).length) (BitVec.ofNat 32 (finderScore s))
      (scoredState s)) := by
  have hgood := mt (geom_refused_iff s).mp (not_not.mpr hfits)
  have hmiss := not_not.mp (mt (finderDetected_iff s).mpr hd)
  simp only [exec, execFrDetect, if_neg hgood, if_pos hmiss, recordScore_geom, rcnt_geom, score_geom]
  rfl

end

/-- Settles O29. -/
theorem detectScoresTheReservedModules : Obligations.DetectScoresTheReservedModules := by
  unfold Obligations.DetectScoresTheReservedModules
  exact fun s => ⟨hasWord_of_encode rfl, exec_frDetect_of_refused,
    fun htmpl hgrid => exec_frDetect_of_not_detected ⟨htmpl, hgrid⟩,
    fun htmpl hgrid => exec_frDetect_of_detected ⟨htmpl, hgrid⟩⟩

/-! ### `FR_PARSE` (R214 to R220) -/

theorem exec_frParse_of_refused {s : State} (h : ¬ (templateFits s ∧ gridFits s) ∨ capacity s < 72) :
    exec .frParse s = .next (settled 0x12 0 0 s) := by
  simp only [exec, execFrParse, capBits_geom]
  split_ifs with hbad hcap
  · rfl
  · rfl
  · exact (h.elim (hbad ∘ (geom_refused_iff s).mpr) hcap).elim

/-- The header at the front of the grid (R217). -/
def frameHeader (s : State) : Header := headerOf (gridSequence s)

/-- The checksum that would be right for the header (R218). -/
def wantedChecksum (h : Header) : BitVec 16 := crc16 (headerBytes h.fid h.tot h.len)

section

variable {s : State} (hfits : templateFits s ∧ gridFits s) (hcap : 72 ≤ capacity s)

include hfits hcap

theorem exec_frParse_of_fits : exec .frParse s = .next (stageFinder (geom s) s) := by
  have hgood := mt (geom_refused_iff s).mp (not_not.mpr hfits)
  simp only [exec, execFrParse, capBits_geom, if_neg hgood, if_neg (not_lt.mpr hcap)]

theorem exec_frParse_of_not_detected (hd : ¬ finderDetected s) :
    exec .frParse s = .next (settled 0x03 (BitVec.ofNat 24 (reservedCells s).length) (BitVec.ofNat 32 (finderScore s))
      (enterStage .detectingFinder (scoredState s))) := by
  have hmiss := not_not.mp (mt (finderDetected_iff s).mpr hd)
  rw [exec_frParse_of_fits hfits hcap, stageFinder, if_pos hmiss, rcnt_geom, score_geom, ← recordScore_geom]
  rfl

/-- With the finder detected, the command goes on with the checksum of the header it reads, which cannot fail (R217). -/
theorem exec_frParse_of_detected (hd : finderDetected s) :
    exec .frParse s = .next (stageChecksum (geom s) (gridSequence s) (frameHeader s) (scoredState s)) := by
  have hbits : gridBits (geom s) (enterStage .extractingHeader (recordScore (geom s) (enterStage .detectingFinder s)))
      = gridSequence s := gridBits_geom s
  rw [exec_frParse_of_fits hfits hcap, stageFinder, if_neg ((finderDetected_iff s).mp hd), stageHeader, hbits,
    ← recordScore_geom]
  rfl

end

section

variable (s t : State) (h : Header) {bits : List Bool}

theorem stageChecksum_of_wrong (g : Geom) (hck : wantedChecksum h ≠ h.ck) :
    stageChecksum g bits h t = settled 0x04 0 (wantedChecksum h ++ h.ck) (enterStage .validatingChecksum t) :=
  if_pos hck

theorem stageChecksum_of_right (g : Geom) (hck : wantedChecksum h = h.ck) :
    stageChecksum g bits h t = stagePayload g bits h (enterStage .validatingChecksum t) :=
  if_neg (not_not.mpr hck)

theorem stagePayload_of_short (hlen : (capacity s - 72) / 8 < h.len.toNat) :
    stagePayload (geom s) bits h t
      = settled 0x01 0 (BitVec.ofNat 32 ((capacity s - 72) / 8)) (enterStage .extractingPayload t) := by
  rw [stagePayload, availBytes_geom, if_pos hlen]
  rfl

theorem stagePayload_of_fits (hlen : h.len.toNat ≤ (capacity s - 72) / 8) :
    stagePayload (geom s) bits h t
      = settled 0x00 h.fid (h.tot ++ h.len) (frameParsed h (bodyOf bits ((capacity s - 72) / 8)) t) := by
  rw [stagePayload, availBytes_geom, if_neg (not_lt.mpr hlen)]
  rfl

theorem frameParsed_bodyOf (n : Nat) :
    frameParsed h (bodyOf bits n) t = { t with fmu := { t.fmu with
      parseState := .done, hdrFrameId := h.fid, hdrTotal := h.tot, hdrPaylen := h.len, hdrCksum := h.ck,
      fbuf := Mem.writeList t.fmu.fbuf 0 (bodyOf bits n), fbLen := BitVec.ofNat 16 n } } := by
  rw [frameParsed, bodyOf_length]

/-- Every stage passed: the frame is published (R220). -/
theorem exec_frParse_of_right (hfits : templateFits s ∧ gridFits s) (hcap : 72 ≤ capacity s) (hd : finderDetected s)
    (hck : wantedChecksum (frameHeader s) = (frameHeader s).ck) (hlen : (frameHeader s).len.toNat ≤ (capacity s - 72) / 8) :
    exec .frParse s = .next (settled 0x00 (frameHeader s).fid ((frameHeader s).tot ++ (frameHeader s).len)
      (frameParsed (frameHeader s) (bodyOf (gridSequence s) ((capacity s - 72) / 8)) (scoredState s))) := by
  rw [exec_frParse_of_detected hfits hcap hd, stageChecksum_of_right _ _ _ hck, stagePayload_of_fits s _ _ hlen]
  rfl

end

/-- Settles O30: one lemma per stage at which the command can end. -/
theorem parseRunsTheStagesInOrder : Obligations.ParseRunsTheStagesInOrder := by
  unfold Obligations.ParseRunsTheStagesInOrder
  intro s
  refine ⟨hasWord_of_encode rfl, exec_frParse_of_refused, fun htmpl hgrid hcap =>
    ⟨exec_frParse_of_not_detected ⟨htmpl, hgrid⟩ hcap, fun hd hck => ?_, fun hd hck hlen => ?_, fun hd hck hlen => ?_⟩⟩
  · rw [exec_frParse_of_detected ⟨htmpl, hgrid⟩ hcap hd]
    exact congrArg _ (stageChecksum_of_wrong _ (frameHeader s) _ hck)
  · rw [exec_frParse_of_detected ⟨htmpl, hgrid⟩ hcap hd, stageChecksum_of_right _ (frameHeader s) _ hck]
    exact congrArg _ (stagePayload_of_short s _ (frameHeader s) hlen)
  · refine ⟨_, storedRun_writeList _ _ _, ?_⟩
    rw [exec_frParse_of_right s ⟨htmpl, hgrid⟩ hcap hd hck hlen, frameParsed_bodyOf]
    rfl

end Sys2Proof.Proofs

/-! Proofs, part 28: the layout of a frame's bits, and `FR_FORMAT` (O31). -/

namespace Sys2Proof.Proofs

open Sys2Proof Sys2Proof.Machine Sys2Proof.Safety

-- One theorem after the other: side by side, they ask for more threads than the memory limit allows.
set_option Elab.async false

/-! ### Chunks of a bit sequence (42_frame_marker.md R209) -/

theorem chunkValues_length (b count : Nat) (bits : List Bool) : (chunkValues b count bits).length = count := by
  induction count generalizing bits with
  | zero => rfl
  | succ count ih => rw [chunkValues, List.length_cons, ih]

theorem field_drop (bits : List Bool) (k start n : Nat) : field (bits.drop k) start n = field bits (k + start) n := by
  rw [field, field, List.drop_drop]

theorem chunkValues_getElem? {b count j : Nat} (hj : j < count) (bits : List Bool) :
    (chunkValues b count bits)[j]? = some (BitVec.ofNat 3 (field bits (j * b) b)) := by
  induction count generalizing bits j with
  | zero => omega
  | succ count ih =>
    cases j with
    | zero => simp [chunkValues, field]
    | succ j =>
      rw [chunkValues, List.getElem?_cons_succ, ih (by omega), field_drop, Nat.succ_mul, Nat.add_comm b]

/-! ### Writing cells -/

theorem get?_writeCells_of_notMem (cells : List (Nat × BitVec 3)) (grid : Mem 3) {i : Nat} (hi : i ∉ cells.map Prod.fst) :
    Mem.get? (writeCells grid cells) i = Mem.get? grid i := by
  unfold writeCells
  induction cells generalizing grid with
  | nil => rfl
  | cons c cells ih =>
    rw [List.map_cons, List.mem_cons, not_or] at hi
    rw [List.foldl_cons, ih _ hi.2, Mem.get?_write_ne _ _ _ _ hi.1]

theorem get?_writeCells_of_mem {cells : List (Nat × BitVec 3)} (grid : Mem 3) (hnd : (cells.map Prod.fst).Nodup) {i : Nat}
    {v : BitVec 3} (hmem : (i, v) ∈ cells) : Mem.get? (writeCells grid cells) i = some v := by
  induction cells generalizing grid with
  | nil => cases hmem
  | cons c cells ih =>
    rw [List.map_cons, List.nodup_cons] at hnd
    obtain rfl | hmem := List.mem_cons.mp hmem
    · exact (get?_writeCells_of_notMem cells _ hnd.1).trans (Mem.get?_write_self _ _ _)
    · exact ih _ hnd.2 hmem

/-! ### The modules (R206) -/

theorem mem_reservedCells {s : State} {i : Nat} :
    i ∈ reservedCells s ↔ i < s.fmu.gridN.toNat ^ 2 ∧ 8 ≤ (readTmpl s i).toNat := by
  simp [reservedCells]

theorem mem_payloadCells {s : State} {i : Nat} :
    i ∈ payloadCells s ↔ i < s.fmu.gridN.toNat ^ 2 ∧ (readTmpl s i).toNat < 8 := by
  simp [payloadCells]

theorem reservedCells_nodup (s : State) : (reservedCells s).Nodup := List.nodup_range.filter _

theorem payloadCells_nodup (s : State) : (payloadCells s).Nodup := List.nodup_range.filter _

theorem notMem_payloadCells_of_mem {s : State} {i : Nat} (h : i ∈ reservedCells s) : i ∉ payloadCells s := fun hp => by
  have hres := (mem_reservedCells.mp h).2
  have hpay := (mem_payloadCells.mp hp).2
  omega

theorem notMem_cells_of_le {s : State} {i : Nat} (h : s.fmu.gridN.toNat ^ 2 ≤ i) :
    i ∉ reservedCells s ∧ i ∉ payloadCells s :=
  ⟨fun hm => absurd (mem_reservedCells.mp hm).1 (not_lt.mpr h), fun hm => absurd (mem_payloadCells.mp hm).1 (not_lt.mpr h)⟩

/-! ### The grid with finder and bits in place (R209, R222) -/

section

variable (s : State) (grid : Mem 3)

theorem tmplTval_eq_ofNat : ∀ e : BitVec 4, tmplTval e = BitVec.ofNat 3 (e.toNat % 8) := by decide

theorem finderCells_fst :
    ((geom s).resv.map fun i => (i, tmplTval (readTmpl s i))).map Prod.fst = reservedCells s := by
  rw [geom_resv, List.map_map]
  exact List.map_id _

theorem get?_placeFinder_of_mem {i : Nat} (hi : i ∈ reservedCells s) :
    Mem.get? (placeFinder (geom s) s grid) i = some (BitVec.ofNat 3 ((readTmpl s i).toNat % 8)) := by
  rw [← tmplTval_eq_ofNat]
  refine get?_writeCells_of_mem grid ?_ (List.mem_map.mpr ⟨i, (geom_resv s).symm ▸ hi, rfl⟩)
  rw [finderCells_fst]
  exact reservedCells_nodup s

theorem get?_placeFinder_of_notMem {i : Nat} (hi : i ∉ reservedCells s) :
    Mem.get? (placeFinder (geom s) s grid) i = Mem.get? grid i :=
  get?_writeCells_of_notMem _ grid ((finderCells_fst s).symm ▸ hi)

/-- A bit sequence with the zeros that fill the grid (R209). -/
def paddedBits (bits : List Bool) : List Bool := bits ++ List.replicate (capacity s - bits.length) false

/-- The payload-carrying modules with the chunks they take. -/
def bodyCells (bits : List Bool) : List (Nat × BitVec 3) :=
  (payloadCells s).zip (chunkValues s.fmu.palBits.toNat (payloadCells s).length (paddedBits s bits))

theorem placeBits_geom (bits : List Bool) : placeBits (geom s) bits grid = writeCells grid (bodyCells s bits) := by
  simp only [placeBits, capBits_geom, geom_m, geom_b, bodyCells, paddedBits]

theorem bodyCells_fst (bits : List Bool) : (bodyCells s bits).map Prod.fst = payloadCells s :=
  List.map_fst_zip (chunkValues_length _ _ _).ge

theorem get?_placeBits_of_payload (bits : List Bool) {i j : Nat} (hi : (payloadCells s)[j]? = some i) :
    Mem.get? (placeBits (geom s) bits grid) i
      = some (BitVec.ofNat 3 (field (paddedBits s bits) (j * s.fmu.palBits.toNat) s.fmu.palBits.toNat)) := by
  obtain ⟨hj, -⟩ := List.getElem?_eq_some_iff.mp hi
  have hcell : (bodyCells s bits)[j]? = some (i, _) := List.getElem?_zip_eq_some.mpr ⟨hi, chunkValues_getElem? hj _⟩
  rw [placeBits_geom]
  refine get?_writeCells_of_mem grid ?_ (List.mem_of_getElem? hcell)
  rw [bodyCells_fst]
  exact payloadCells_nodup s

theorem get?_placeBits_of_notMem (bits : List Bool) {i : Nat} (hi : i ∉ payloadCells s) :
    Mem.get? (placeBits (geom s) bits grid) i = Mem.get? grid i := by
  rw [placeBits_geom, get?_writeCells_of_notMem _ grid ((bodyCells_fst s bits).symm ▸ hi)]

end

/-! ### `FR_FORMAT` (R222) -/

/-- The header `FR_FORMAT` writes: the header registers and their checksum (R208). -/
def sentHeader (s : State) : Header :=
  { fid := s.fmu.hdrFrameId, tot := s.fmu.hdrTotal, len := s.fmu.hdrPaylen
    ck := crc16 (headerBytes s.fmu.hdrFrameId s.fmu.hdrTotal s.fmu.hdrPaylen) }

/-- The bytes `FR_FORMAT` writes after the header. -/
def bodyLength (s : State) : Nat := s.fmu.hdrPaylen.toNat + s.fmu.frParlen.toNat

/-- Header and bytes as one bit sequence (R209). -/
def frameBits (s : State) : List Bool :=
  headerBits (sentHeader s).fid (sentHeader s).tot (sentHeader s).len (sentHeader s).ck ++ bitsOfBytes (frameBody s)

theorem frameBody_length (s : State) : (frameBody s).length = bodyLength s := by simp [frameBody, bodyLength]

theorem headerBits_length (fid : BitVec 24) (tot len ck : BitVec 16) : (headerBits fid tot len ck).length = 72 := by
  simp [headerBits, headerBytes, bitsOfBytes_length]

theorem frameBits_length (s : State) : (frameBits s).length = 72 + 8 * bodyLength s := by
  rw [frameBits, List.length_append, headerBits_length, bitsOfBytes_length, frameBody_length]

/-- The grid `FR_FORMAT` leaves. -/
def formattedGrid (s : State) : Mem 3 := placeBits (geom s) (frameBits s) (placeFinder (geom s) s s.fmu.grid)

/-- The state `FR_FORMAT` leaves, before the command ends. -/
def formattedState (s : State) : State :=
  { s with fmu := { s.fmu with
      grid := formattedGrid s, hdrCksum := (sentHeader s).ck, frRcnt := BitVec.ofNat 16 (reservedCells s).length } }

theorem get?_formattedGrid_of_reserved {s : State} {i : Nat} (hi : i ∈ reservedCells s) :
    Mem.get? (formattedGrid s) i = some (BitVec.ofNat 3 ((readTmpl s i).toNat % 8)) :=
  (get?_placeBits_of_notMem s _ _ (notMem_payloadCells_of_mem hi)).trans (get?_placeFinder_of_mem s _ hi)

theorem get?_formattedGrid_of_payload {s : State} {i j : Nat} (hi : (payloadCells s)[j]? = some i) :
    Mem.get? (formattedGrid s) i = some
      (BitVec.ofNat 3 (field (paddedBits s (frameBits s)) (j * s.fmu.palBits.toNat) s.fmu.palBits.toNat)) :=
  get?_placeBits_of_payload s _ _ hi

theorem get?_formattedGrid_of_le {s : State} {i : Nat} (hi : s.fmu.gridN.toNat ^ 2 ≤ i) :
    Mem.get? (formattedGrid s) i = Mem.get? s.fmu.grid i := by
  obtain ⟨hres, hpay⟩ := notMem_cells_of_le hi
  exact (get?_placeBits_of_notMem s _ _ hpay).trans (get?_placeFinder_of_notMem s _ hres)

section

variable {s : State}

theorem exec_frFormat_of_unfit (h : ¬ templateFits s) : exec .frFormat s = .next (settled 0x12 0 0 s) := by
  have hbad : (!(geom s).tmplOk) = true := by rwa [Bool.not_eq_true', ← Bool.not_eq_true, geom_tmplOk_iff]
  simp only [exec, execFrFormat, if_pos hbad]
  rfl

variable (h : templateFits s)

include h

theorem exec_frFormat_of_small (hcap : capacity s < 72 + 8 * bodyLength s) :
    exec .frFormat s = .next (settled 0x12 0 (BitVec.ofNat 32 ((capacity s - 72) / 8)) s) := by
  have hgood : ¬ (!(geom s).tmplOk) = true := by rw [(geom_tmplOk_iff s).mpr h]; decide
  unfold bodyLength at hcap
  simp only [exec, execFrFormat, if_neg hgood, capBits_geom, if_pos hcap, availBytes_geom]
  rfl

theorem exec_frFormat_of_fits (hcap : 72 + 8 * bodyLength s ≤ capacity s) :
    exec .frFormat s = .next (settled 0x00 (BitVec.ofNat 24 (cdiv (72 + 8 * bodyLength s) s.fmu.palBits.toNat))
      ((sentHeader s).ck.setWidth 32) (formattedState s)) := by
  have hgood : ¬ (!(geom s).tmplOk) = true := by rw [(geom_tmplOk_iff s).mpr h]; decide
  have hfits := not_lt.mpr hcap
  unfold bodyLength at hfits
  simp only [exec, execFrFormat, if_neg hgood, capBits_geom, if_neg hfits, rcnt_geom]
  rfl

end

/-- Settles O31. -/
theorem formatLaysOutTheFrame : Obligations.FormatLaysOutTheFrame := by
  unfold Obligations.FormatLaysOutTheFrame
  intro s
  refine ⟨hasWord_of_encode rfl, exec_frFormat_of_unfit, exec_frFormat_of_small, fun h hcap =>
    ⟨formattedGrid s, fun i => get?_formattedGrid_of_reserved, fun j i hi => ?_, fun a => get?_formattedGrid_of_le,
      exec_frFormat_of_fits h hcap⟩⟩
  rw [get?_formattedGrid_of_payload hi, paddedBits, frameBits_length]
  rfl

end Sys2Proof.Proofs

/-! Proofs, part 29: `FR_PARSE` reads back what `FR_FORMAT` laid out (O53). -/

namespace Sys2Proof.Proofs

open Sys2Proof Sys2Proof.Machine Sys2Proof.Safety

-- One theorem after the other: side by side, they ask for more threads than the memory limit allows.
set_option Elab.async false

/-! ### Numbers and their bits (00_scope.md R14) -/

theorem intBe_append_singleton (bits : List Bool) (b : Bool) : intBe (bits ++ [b]) = 2 * intBe bits + b.toNat := by
  rw [intBe, List.foldl_append]
  rfl

/-- R14: `bits_be` is the inverse of `int_be`. -/
theorem bitsBe_intBe (bits : List Bool) : bitsBe (intBe bits) bits.length = bits := by
  induction bits using List.reverseRecOn with
  | nil => rfl
  | append_singleton bits b ih =>
    have hhalf : intBe (bits ++ [b]) / 2 = intBe bits := by
      have hb := b.toNat_lt
      rw [intBe_append_singleton]
      omega
    have hlast : (intBe (bits ++ [b])).testBit 0 = b := by
      rw [intBe_append_singleton]
      cases b <;> simp
    rw [List.length_append, List.length_singleton, bitsBe_succ, hhalf, hlast, ih]

theorem intBe_lt (bits : List Bool) : intBe bits < 2 ^ bits.length := by
  have h := intBe_bitsBe bits.length (intBe bits)
  rw [bitsBe_intBe] at h
  rw [h]
  exact Nat.mod_lt _ (Nat.two_pow_pos _)

theorem intBe_replicate_false (n : Nat) : intBe (List.replicate n false) = 0 := by
  induction n with
  | zero => rfl
  | succ n ih => rw [List.replicate_succ', intBe_append_singleton, ih]; rfl

theorem bitsBe_add (v m n : Nat) : bitsBe v (m + n) = bitsBe (v >>> n) m ++ bitsBe v n := by
  induction n generalizing v with
  | zero => simp [bitsBe]
  | succ n ih =>
    rw [← Nat.add_assoc, bitsBe_succ, ih, bitsBe_succ v n, List.append_assoc, ← Nat.shiftRight_succ_inside]

theorem bitsBe_mod (v n : Nat) : bitsBe (v % 2 ^ n) n = bitsBe v n := by
  have h := bitsBe_intBe (bitsBe v n)
  rwa [intBe_bitsBe, bitsBe_length] at h

theorem bytesBe_succ (v n : Nat) : bytesBe v (n + 1) = bytesBe (v >>> 8) n ++ [BitVec.ofNat 8 v] := by
  unfold bytesBe
  rw [List.range_succ, List.map_append]
  congr 1
  · refine List.map_congr_left fun i hi => ?_
    have hin := List.mem_range.mp hi
    rw [← Nat.shiftRight_add]
    congr 2
    omega
  · simp

theorem bitsOfBytes_append (l r : List Byte) : bitsOfBytes (l ++ r) = bitsOfBytes l ++ bitsOfBytes r := List.flatMap_append

/-- The bits of a number's bytes are the number's bits. -/
theorem bitsOfBytes_bytesBe (v n : Nat) : bitsOfBytes (bytesBe v n) = bitsBe v (8 * n) := by
  induction n generalizing v with
  | zero => rfl
  | succ n ih =>
    have hlast : bitsOfBytes [BitVec.ofNat 8 v] = bitsBe v 8 := by
      rw [bitsOfBytes_cons, bitsOfBytes_nil, List.append_nil, BitVec.toNat_ofNat, bitsBe_mod]
    rw [bytesBe_succ, bitsOfBytes_append, ih, hlast, Nat.mul_succ, bitsBe_add]

/-! ### Fields of a bit sequence -/

theorem field_lt (bits : List Bool) (start n : Nat) : field bits start n < 2 ^ n :=
  (intBe_lt _).trans_le (Nat.pow_le_pow_right (by decide) (List.length_take_le _ _))

/-- A register's bits, wherever they stand in a sequence, give the register back. -/
theorem field_register (pre : List Bool) {w : Nat} (v : BitVec w) (post : List Bool) :
    BitVec.ofNat w (field (pre ++ (bitsBe v.toNat w ++ post)) pre.length w) = v := by
  have htake : (bitsBe v.toNat w ++ post).take w = bitsBe v.toNat w := by
    rw [List.take_append_of_le_length (by simp), List.take_of_length_le (by simp)]
  rw [field, List.drop_left, htake, intBe_bitsBe, Nat.mod_eq_of_lt v.isLt, BitVec.ofNat_toNat, BitVec.setWidth_eq]

theorem field_zeros {l : List Bool} {start : Nat} (hl : l.length ≤ start) (z n : Nat) :
    field (l ++ List.replicate z false) start n = 0 := by
  rw [field, List.drop_append, List.drop_eq_nil_of_le hl, List.nil_append, List.drop_replicate, List.take_replicate,
    intBe_replicate_false]

/-- Chunk by chunk, a bit sequence is the bits of its chunks' numbers. -/
theorem flatMap_fields {b : Nat} (v : Nat → Nat) (cells : List Nat) {bits : List Bool} (hlen : bits.length = cells.length * b)
    (hv : ∀ j i, cells[j]? = some i → v i = field bits (j * b) b) : cells.flatMap (fun i => bitsBe (v i) b) = bits := by
  induction cells generalizing bits with
  | nil => simpa using hlen
  | cons c cells ih =>
    rw [List.length_cons, Nat.succ_mul] at hlen
    have hhead : bitsBe (v c) b = bits.take b := by
      have htake : (bits.take b).length = b := by rw [List.length_take]; omega
      have hc : v c = intBe (bits.take b) := by rw [hv 0 c rfl, Nat.zero_mul, field, List.drop_zero]
      have hbits := bitsBe_intBe (bits.take b)
      rwa [htake, ← hc] at hbits
    have htail : cells.flatMap (fun i => bitsBe (v i) b) = bits.drop b := by
      refine ih (by rw [List.length_drop]; omega) fun j i hi => ?_
      rw [hv (j + 1) i hi, field_drop, Nat.succ_mul, Nat.add_comm b]
    rw [List.flatMap_cons, hhead, htail, List.take_append_drop]

/-! ### The frame in its bit sequence (42_frame_marker.md R208, R217, R219) -/

theorem headerBits_eq (fid : BitVec 24) (tot len ck : BitVec 16) : headerBits fid tot len ck
    = bitsBe fid.toNat 24 ++ (bitsBe tot.toNat 16 ++ (bitsBe len.toNat 16 ++ bitsBe ck.toNat 16)) := by
  simp only [headerBits, headerBytes, bitsOfBytes_append, bitsOfBytes_bytesBe, List.append_assoc]

theorem headerOf_headerBits (h : Header) (rest : List Bool) : headerOf (headerBits h.fid h.tot h.len h.ck ++ rest) = h := by
  have hfid := field_register [] h.fid (bitsBe h.tot.toNat 16 ++ (bitsBe h.len.toNat 16 ++ (bitsBe h.ck.toNat 16 ++ rest)))
  have htot := field_register (bitsBe h.fid.toNat 24) h.tot (bitsBe h.len.toNat 16 ++ (bitsBe h.ck.toNat 16 ++ rest))
  have hlen := field_register (bitsBe h.fid.toNat 24 ++ bitsBe h.tot.toNat 16) h.len (bitsBe h.ck.toNat 16 ++ rest)
  have hck := field_register (bitsBe h.fid.toNat 24 ++ (bitsBe h.tot.toNat 16 ++ bitsBe h.len.toNat 16)) h.ck rest
  simp only [field, List.append_assoc, List.nil_append, List.length_append, List.length_nil, bitsBe_length, Nat.reduceAdd]
    at hfid htot hlen hck
  simp only [headerOf, bitField, headerBits_eq, List.append_assoc, hfid, htot, hlen, hck]

theorem field_bitsOfBytes {pre : List Bool} {bytes : List Byte} (post : List Bool) {i : Nat} (hi : i < bytes.length) :
    BitVec.ofNat 8 (field (pre ++ (bitsOfBytes bytes ++ post)) (pre.length + 8 * i) 8) = bytes[i] := by
  have hsplit : bytes = bytes.take i ++ (bytes[i] :: bytes.drop (i + 1)) := by
    rw [← List.drop_eq_getElem_cons hi, List.take_append_drop]
  have hbits : bitsOfBytes bytes
      = bitsOfBytes (bytes.take i) ++ (bitsBe bytes[i].toNat 8 ++ bitsOfBytes (bytes.drop (i + 1))) := by
    rw [← bitsOfBytes_cons, ← bitsOfBytes_append, ← hsplit]
  have hfield := field_register (pre ++ bitsOfBytes (bytes.take i)) bytes[i] (bitsOfBytes (bytes.drop (i + 1)) ++ post)
  rw [List.length_append, bitsOfBytes_length, List.length_take, min_eq_left hi.le] at hfield
  simpa only [hbits, List.append_assoc] using hfield

section

variable (s : State)

/-- The bits the grid holds after `FR_FORMAT`, the zeros among them. -/
def sentBits : List Bool := paddedBits s (frameBits s)

theorem headerOf_sentBits : headerOf (sentBits s) = sentHeader s := by
  rw [sentBits, paddedBits, frameBits, List.append_assoc, headerOf_headerBits]

theorem sentBits_length (hcap : 72 + 8 * bodyLength s ≤ capacity s) : (sentBits s).length = capacity s := by
  rw [sentBits, paddedBits, List.length_append, List.length_replicate, frameBits_length]
  omega

theorem field_sentBits_of_lt {i : Nat} (hi : i < bodyLength s) :
    BitVec.ofNat 8 (field (sentBits s) (72 + 8 * i) 8) = readFbuf s i := by
  have hi' : i < (frameBody s).length := (frameBody_length s).symm ▸ hi
  have hbyte := field_bitsOfBytes (pre := headerBits (sentHeader s).fid (sentHeader s).tot (sentHeader s).len (sentHeader s).ck)
    (List.replicate (capacity s - (frameBits s).length) false) hi'
  rw [headerBits_length, ← List.append_assoc] at hbyte
  exact hbyte.trans (by simp [frameBody])

theorem field_sentBits_of_le {i : Nat} (hi : bodyLength s ≤ i) : field (sentBits s) (72 + 8 * i) 8 = 0 :=
  field_zeros (by rw [frameBits_length]; omega) _ _

end

/-! ### The candidate that `FR_FORMAT` leaves -/

/-- The grid of `t` holds its finder, and `bits` in its payload-carrying modules. -/
structure LaidOut (t : State) (bits : List Bool) : Prop where
  fits : templateFits t
  length : bits.length = capacity t
  finder : ∀ i ∈ reservedCells t, Mem.get? t.fmu.grid i = some (BitVec.ofNat 3 ((readTmpl t i).toNat % 8))
  body : ∀ j i, (payloadCells t)[j]? = some i →
    Mem.get? t.fmu.grid i = some (BitVec.ofNat 3 (field bits (j * t.fmu.palBits.toNat) t.fmu.palBits.toNat))

section

variable {t : State} {bits : List Bool} (h : LaidOut t bits)

include h

theorem LaidOut.readGrid_reserved {i : Nat} (hi : i ∈ reservedCells t) :
    (readGrid t i).toNat = (readTmpl t i).toNat % 8 := by
  have hread : readGrid t i = BitVec.ofNat 3 ((readTmpl t i).toNat % 8) := readCell_of_get? _ _ _ _ _ (h.finder i hi)
  rw [hread, BitVec.toNat_ofNat]
  omega

theorem LaidOut.readGrid_payload {i j : Nat} (hi : (payloadCells t)[j]? = some i) :
    (readGrid t i).toNat = field bits (j * t.fmu.palBits.toNat) t.fmu.palBits.toNat := by
  have hread : readGrid t i = BitVec.ofNat 3 (field bits (j * t.fmu.palBits.toNat) t.fmu.palBits.toNat) :=
    readCell_of_get? _ _ _ _ _ (h.body j i hi)
  have hpal : 2 ^ t.fmu.palBits.toNat ≤ 2 ^ 3 := Nat.pow_le_pow_right (by decide) (Nat.le_of_lt_succ t.fmu.palBits.isLt)
  rw [hread, BitVec.toNat_ofNat, Nat.mod_eq_of_lt ((field_lt _ _ _).trans_le hpal)]

theorem LaidOut.gridFits : gridFits t := by
  intro i hi
  by_cases hres : 8 ≤ (readTmpl t i).toNat
  · have hmem : i ∈ reservedCells t := mem_reservedCells.mpr ⟨hi, hres⟩
    rw [h.readGrid_reserved hmem]
    exact h.fits i hmem
  · obtain ⟨j, hj⟩ := List.mem_iff_getElem?.mp (mem_payloadCells.mpr ⟨hi, not_le.mp hres⟩)
    rw [h.readGrid_payload hj]
    exact field_lt _ _ _

theorem LaidOut.finderDetected : finderDetected t := by
  have hall : finderScore t = (reservedCells t).length := by
    rw [finderScore, List.filter_eq_self.mpr]
    exact fun i hi => beq_iff_eq.mpr (h.readGrid_reserved hi)
  rw [Safety.finderDetected, hall]
  exact Nat.le_add_right _ _

theorem LaidOut.gridSequence_eq : gridSequence t = bits :=
  flatMap_fields _ _ h.length fun _ _ hi => h.readGrid_payload hi

end

/-! ### The template after a command -/

section

variable {s t : State} (hw : templateWritten s) (htmpl : t.fmu.tmpl = s.fmu.tmpl) (hside : t.fmu.gridN = s.fmu.gridN)

include hw htmpl

/-- A written template reads the same during every command (20_memory.md R79). -/
theorem readTmpl_of_written {i : Nat} (hi : i < s.fmu.gridN.toNat ^ 2) : readTmpl t i = readTmpl s i := by
  obtain ⟨e, he⟩ := Option.isSome_iff_exists.mp (hw i (gridBound_eq_sq s ▸ hi))
  exact (readCell_of_get? _ _ _ _ e (htmpl ▸ he)).trans (readCell_of_get? _ _ _ _ e he).symm

include hside

theorem reservedCells_of_written : reservedCells t = reservedCells s := by
  unfold reservedCells
  rw [hside]
  exact List.filter_congr fun i hi => by rw [readTmpl_of_written hw htmpl (List.mem_range.mp hi)]

theorem payloadCells_of_written : payloadCells t = payloadCells s := by
  unfold payloadCells
  rw [hside]
  exact List.filter_congr fun i hi => by rw [readTmpl_of_written hw htmpl (List.mem_range.mp hi)]

end

/-! ### The round trip (R223) -/

/-- `FR_FORMAT` ends with `OK` only where the template and the frame fit. -/
theorem frFormat_ok {s t : State} (h : exec .frFormat s = .next t) (hok : t.ctl.status = 0) :
    templateFits s ∧ 72 + 8 * bodyLength s ≤ capacity s := by
  have hfits : templateFits s := by
    by_contra hne
    exact exec_ne_of_ok h hok (by decide) (exec_frFormat_of_unfit hne)
  refine ⟨hfits, ?_⟩
  by_contra hlt
  exact exec_ne_of_ok h hok (by decide) (exec_frFormat_of_small hfits (not_le.mp hlt))

theorem laidOut_of_formatted {s t : State} (hw : templateWritten s) (hfits : templateFits s)
    (hcap : 72 + 8 * bodyLength s ≤ capacity s) (hf : t.fmu = (formattedState s).fmu) : LaidOut t (sentBits s) := by
  have htmpl : t.fmu.tmpl = s.fmu.tmpl := by rw [hf]; rfl
  have hside : t.fmu.gridN = s.fmu.gridN := by rw [hf]; rfl
  have hpal : t.fmu.palBits = s.fmu.palBits := by rw [hf]; rfl
  have hgrid : t.fmu.grid = formattedGrid s := by rw [hf]; rfl
  have hres : reservedCells t = reservedCells s := reservedCells_of_written hw htmpl hside
  have hpay : payloadCells t = payloadCells s := payloadCells_of_written hw htmpl hside
  have hread : ∀ i ∈ reservedCells s, readTmpl t i = readTmpl s i :=
    fun i hi => readTmpl_of_written hw htmpl (mem_reservedCells.mp hi).1
  constructor
  · intro i hi
    rw [hres] at hi
    rw [hread i hi, hpal]
    exact hfits i hi
  · rw [sentBits_length s hcap, capacity, capacity, hpay, hpal]
  · intro i hi
    rw [hres] at hi
    rw [hread i hi, hgrid]
    exact get?_formattedGrid_of_reserved hi
  · intro j i hi
    rw [hpay] at hi
    rw [hpal, hgrid]
    exact get?_formattedGrid_of_payload hi

/-- What `FR_PARSE` stores of the bytes that `FR_FORMAT` sent. -/
theorem get?_parsedBody {s : State} (m : Mem 8) {i avail : Nat} (hi : i < avail) :
    Mem.get? (Mem.writeList m 0 (bodyOf (sentBits s) avail)) i
      = some (BitVec.ofNat 8 (field (sentBits s) (72 + 8 * i) 8)) := by
  rw [get?_writeList_zero _ _ (by rwa [bodyOf_length])]
  simp [bodyOf, hi]
  rfl

/-- Settles O53: the parser finds the finder, the header and the bits where the formatter put them. -/
theorem formatThenParseReturnsTheFrame : Obligations.FormatThenParseReturnsTheFrame := by
  unfold Obligations.FormatThenParseReturnsTheFrame
  intro s t hw hbody h hok
  obtain ⟨hfits, hcap⟩ := frFormat_ok h hok
  cases h.symm.trans (exec_frFormat_of_fits hfits hcap)
  set t := settled 0x00 (BitVec.ofNat 24 (cdiv (72 + 8 * bodyLength s) s.fmu.palBits.toNat)) ((sentHeader s).ck.setWidth 32)
    (formattedState s)
  have hlaid : LaidOut t (sentBits s) := laidOut_of_formatted hw hfits hcap rfl
  have hheader : frameHeader t = sentHeader s := by rw [frameHeader, hlaid.gridSequence_eq, headerOf_sentBits]
  have hcapt : capacity t = capacity s := hlaid.length.symm.trans (sentBits_length s hcap)
  have havail : bodyLength s ≤ (capacity t - 72) / 8 := by omega
  have hparse := exec_frParse_of_right t ⟨hlaid.fits, hlaid.gridFits⟩ (by omega) hlaid.finderDetected
    (by rw [hheader]; rfl) (by rw [hheader]; exact (Nat.le_add_right _ _).trans havail)
  rw [hheader, hlaid.gridSequence_eq] at hparse
  refine ⟨_, hparse, rfl, rfl, rfl, rfl, rfl, fun i hi => ?_, fun i hi hlen => ?_⟩
  · obtain ⟨v, hv⟩ := Option.isSome_iff_exists.mp (hbody i hi)
    have hread : readFbuf s i = v := readCell_of_get? _ _ _ _ v hv
    exact (get?_parsedBody _ (hi.trans_le havail)).trans (by rw [field_sentBits_of_lt s hi, hread, hv])
  · have hin : i < (capacity t - 72) / 8 :=
      hlen.trans_le ((toNat_ofNat_le le_rfl).trans_eq (bodyOf_length _ _))
    exact (get?_parsedBody _ hin).trans (by rw [field_sentBits_of_le s hi]; rfl)

end Sys2Proof.Proofs

/-! Proofs, part 30: the correlator reports the first peak (O32). -/

namespace Sys2Proof.Proofs

open Sys2Proof Sys2Proof.Machine Sys2Proof.Safety

/-! ### The first greatest value (43_audio_correlator.md R255) -/

/-- Among the lags `0 .. count`, `lag` is the first at which `c` is greatest. -/
structure IsFirstPeak (c : Nat → Int) (count lag : Nat) : Prop where
  mem : lag ≤ count
  greatest : ∀ l ≤ count, c l ≤ c lag
  first : ∀ l < lag, c l < c lag

namespace IsFirstPeak

variable {c : Nat → Int} {count lag : Nat}

theorem zero : IsFirstPeak c 0 0 :=
  ⟨le_rfl, fun l hl => by rw [Nat.le_zero.mp hl], fun _ hl => absurd hl (Nat.not_lt_zero _)⟩

/-- A lag more with a greater value is the peak. -/
theorem succ_of_lt (h : IsFirstPeak c count lag) (hv : c lag < c (count + 1)) : IsFirstPeak c (count + 1) (count + 1) := by
  have hbelow : ∀ l ≤ count, c l < c (count + 1) := fun l hl => (h.greatest l hl).trans_lt hv
  refine ⟨le_rfl, fun l hl => ?_, fun l hl => hbelow l (Nat.lt_succ_iff.mp hl)⟩
  obtain hl | rfl := Nat.le_succ_iff.mp hl
  · exact (hbelow l hl).le
  · exact le_rfl

/-- A lag more with no greater value, a tie included, leaves the peak where it is. -/
theorem succ_of_le (h : IsFirstPeak c count lag) (hv : c (count + 1) ≤ c lag) : IsFirstPeak c (count + 1) lag := by
  refine ⟨h.mem.trans (Nat.le_succ _), fun l hl => ?_, h.first⟩
  obtain hl | rfl := Nat.le_succ_iff.mp hl
  · exact h.greatest l hl
  · exact hv

/-- The earlier of two first peaks would be smaller than the later one, which it is not. -/
theorem unique {lag' : Nat} (h : IsFirstPeak c count lag) (h' : IsFirstPeak c count lag') : lag = lag' := by
  obtain hlt | heq | hgt := lt_trichotomy lag lag'
  · exact absurd (h'.first lag hlt) (not_lt.mpr (h.greatest lag' h'.mem))
  · exact heq
  · exact absurd (h.first lag' hgt) (not_lt.mpr (h'.greatest lag h.mem))

end IsFirstPeak

/-- The model's search stops at the first peak. -/
theorem isFirstPeak_peakOf (c : Nat → Int) (count : Nat) : IsFirstPeak c count (peakOf c count).2 := by
  induction count with
  | zero => exact .zero
  | succ count ih =>
    simp only [peakOf]
    split_ifs with hv <;> rw [peakOf_fst] at hv
    · exact ih.succ_of_lt hv
    · exact ih.succ_of_le (not_lt.mp hv)

theorem peakOf_eq_of_isFirstPeak {c : Nat → Int} {count lag : Nat} (h : IsFirstPeak c count lag) :
    peakOf c count = (c lag, lag) := by
  have hlag : (peakOf c count).2 = lag := (isFirstPeak_peakOf c count).unique h
  exact Prod.ext ((peakOf_fst c count).trans (congrArg c hlag)) hlag

/-! ### `AU_CORR` (R254, R257) -/

/-- The sum of R254, over a finite set of offsets where the model has a list of them. -/
theorem correlation_eq_sum (s : State) (t : Nat) :
    correlation s t = fun l => ∑ i ∈ Finset.range t, (readAbuf s (l + i)).toInt * (readPtmpl s i).toInt :=
  rfl

/-- The state with this correlation and lag in `AU_PEAK` and `AU_LAG`. -/
def peakState (peak : Int) (lag : Nat) (s : State) : State :=
  { s with apc := { s.apc with
      auPeakLo := (wrap 48 peak).extractLsb' 0 32
      auPeakHi := (wrap 48 peak).extractLsb' 32 16
      auLag := BitVec.ofNat 12 lag } }

section

variable {s : State}

theorem exec_auCorr_of_no_template (ht : s.apc.ptLen.toNat = 0) : exec .auCorr s = .next (settled 0x12 0 0 s) := by
  simp only [exec, execAuCorr, if_pos ht, raise_eq_settled, codeOf]

theorem exec_auCorr_of_short (ht : s.apc.ptLen.toNat ≠ 0) (ha : s.apc.abLen.toNat < s.apc.ptLen.toNat) :
    exec .auCorr s = .next (settled 0x05 0 0 s) := by
  simp only [exec, execAuCorr, if_neg ht, if_pos ha, raise_eq_settled, codeOf]

variable {c : Nat → Int} {lag : Nat} (ht : s.apc.ptLen.toNat ≠ 0) (ha : s.apc.ptLen.toNat ≤ s.apc.abLen.toNat)
  (hc : correlation s s.apc.ptLen.toNat = c) (hpeak : IsFirstPeak c (s.apc.abLen.toNat - s.apc.ptLen.toNat) lag)

include ht ha hc hpeak

theorem exec_auCorr_of_below (hthr : c lag < threshold s) :
    exec .auCorr s = .next (settled 0x05 (BitVec.ofNat 24 lag) (wrap 32 (c lag)) (peakState (c lag) lag s)) := by
  simp only [exec, execAuCorr, if_neg ht, if_neg (not_lt.mpr ha), hc, peakOf_eq_of_isFirstPeak hpeak, if_pos hthr,
    raise_eq_settled, codeOf, peakState]

theorem exec_auCorr_of_reached (hthr : threshold s ≤ c lag) :
    exec .auCorr s = .next (settled 0x00 (BitVec.ofNat 24 lag) (wrap 32 (c lag)) (peakState (c lag) lag s)) := by
  simp only [exec, execAuCorr, if_neg ht, if_neg (not_lt.mpr ha), hc, peakOf_eq_of_isFirstPeak hpeak,
    if_neg (not_lt.mpr hthr), respond_eq_settled, codeOf, peakState]

end

/-- Settles O32: a lag as the statement describes it is the first peak, and the model's search finds no other. -/
theorem correlatorReportsTheFirstPeak : Obligations.CorrelatorReportsTheFirstPeak := by
  unfold Obligations.CorrelatorReportsTheFirstPeak
  intro s t a c thr
  have hc : correlation s t = c := correlation_eq_sum s t
  refine ⟨hasWord_of_encode rfl, exec_auCorr_of_no_template, exec_auCorr_of_short, fun lag ht ha hmem hgreatest hfirst => ?_⟩
  have hpeak : IsFirstPeak c (a - t) lag := ⟨hmem, hgreatest, hfirst⟩
  exact ⟨exec_auCorr_of_below ht ha hc hpeak, exec_auCorr_of_reached ht ha hc hpeak⟩

end Sys2Proof.Proofs

/-! Proofs, part 31: the estimator of the channel synchroniser (O37, O39). -/

namespace Sys2Proof.Proofs

open Sys2Proof Sys2Proof.Machine Sys2Proof.Safety

/-! ### The decaying average (44_channel_sync.md R277, R278) -/

/-- The floor of nine tenths old plus one tenth new lies between the two, so it fits the width of both. -/
theorem wrap_average_toInt {n : Nat} (hn : 0 < n) (old : BitVec n) {new : Int} (hlo : -2 ^ (n - 1) ≤ new)
    (hhi : new < 2 ^ (n - 1)) :
    (wrap n (fdiv (9 * old.toInt + new) 10)).toInt = fdiv (9 * old.toInt + new) 10 := by
  have hold : -2 ^ (n - 1) ≤ old.toInt := BitVec.le_toInt old
  have hold' : old.toInt < 2 ^ (n - 1) := BitVec.toInt_lt
  obtain ⟨hq, hq'⟩ := fdiv_spec (9 * old.toInt + new) 10 (by decide)
  exact BitVec.toInt_ofInt_eq_self hn (by omega) (by omega)

/-- What both averages of the estimator compute. -/
theorem wrap_average_spec {n : Nat} (hn : 0 < n) (old : BitVec n) {new : Int} (hlo : -2 ^ (n - 1) ≤ new)
    (hhi : new < 2 ^ (n - 1)) :
    10 * (wrap n (fdiv (9 * old.toInt + new) 10)).toInt ≤ 9 * old.toInt + new
      ∧ 9 * old.toInt + new < 10 * ((wrap n (fdiv (9 * old.toInt + new) 10)).toInt + 1) := by
  rw [wrap_average_toInt hn old hlo hhi]
  obtain ⟨hq, hq'⟩ := fdiv_spec (9 * old.toInt + new) 10 (by decide)
  exact ⟨by omega, by omega⟩

/-- A signed 32-bit measurement, shifted by the 16 fraction bits, is a signed 48-bit number. -/
theorem offsetUpdate_spec (off : BitVec 48) (m : BitVec 32) :
    10 * (offsetUpdate off m.toInt).toInt ≤ 9 * off.toInt + m.toInt * 2 ^ 16
      ∧ 9 * off.toInt + m.toInt * 2 ^ 16 < 10 * ((offsetUpdate off m.toInt).toInt + 1) := by
  have hlo : -2 ^ 31 ≤ m.toInt := BitVec.le_toInt m
  have hhi : m.toInt < 2 ^ 31 := BitVec.toInt_lt
  exact wrap_average_spec (by decide) off (by omega) (by omega)

theorem rateUpdate_of_not {c : CsuState} {vts : BitVec 32} (m : Int)
    (h : c.havePrev = false ∨ sdiff32 vts c.tPrev ≤ 0) : rateUpdate c m vts = c.rate := by
  refine if_neg fun ⟨hprev, hdt⟩ => ?_
  obtain hno | hle := h
  · exact absurd (hno.symm.trans hprev) (by decide)
  · exact absurd hdt (not_lt.mpr hle)

theorem rateUpdate_of_later {c : CsuState} {vts : BitVec 32} (m : Int) (hprev : c.havePrev = true)
    (hdt : 0 < sdiff32 vts c.tPrev) :
    rateUpdate c m vts = wrap 32 (fdiv (9 * c.rate.toInt + slope m c.mPrev.toInt (sdiff32 vts c.tPrev)) 10) :=
  if_pos ⟨hprev, hdt⟩

/-- The clamped slope is a signed 32-bit number, so the average does not leave the width of `RATE`. -/
theorem rateUpdate_spec {c : CsuState} {vts : BitVec 32} (m : Int) (hprev : c.havePrev = true)
    (hdt : 0 < sdiff32 vts c.tPrev) :
    10 * (rateUpdate c m vts).toInt ≤ 9 * c.rate.toInt + slope m c.mPrev.toInt (sdiff32 vts c.tPrev)
      ∧ 9 * c.rate.toInt + slope m c.mPrev.toInt (sdiff32 vts c.tPrev) < 10 * ((rateUpdate c m vts).toInt + 1) := by
  obtain ⟨hlo, hhi⟩ := satS_bounds 32 (fdiv ((m - c.mPrev.toInt) * 2 ^ 32) (sdiff32 vts c.tPrev))
  rw [rateUpdate_of_later m hprev hdt]
  exact wrap_average_spec (by decide) c.rate hlo (Int.lt_of_le_sub_one hhi)

/-- Settles O37: the quotient of the slope is the model's floor, and both averages are `wrap_average_spec`. -/
theorem estimatorAveragesWithFloor : Obligations.EstimatorAveragesWithFloor := by
  unfold Obligations.EstimatorAveragesWithFloor
  refine ⟨offsetUpdate_spec, fun c m vts => ⟨rateUpdate_of_not m.toInt, fun hprev hdt => ?_⟩⟩
  obtain ⟨hq, hq'⟩ := fdiv_spec ((m.toInt - c.mPrev.toInt) * 2 ^ 32) (vts - c.tPrev).toInt hdt
  exact ⟨_, _, hq, hq', rfl, rateUpdate_spec m.toInt hprev hdt⟩

/-! ### A constant measurement (R286) -/

/-- The offset after `n` matches with the measurement `m`, from 0. -/
def offsetAfter (m : BitVec 32) (n : Nat) : Int := ((fun off => offsetUpdate off m.toInt)^[n] 0).toInt

theorem offsetAfter_zero (m : BitVec 32) : offsetAfter m 0 = 0 := rfl

/-- One match more: the next offset is the floor of the weighted mean. -/
theorem offsetAfter_succ_spec (m : BitVec 32) (n : Nat) :
    10 * offsetAfter m (n + 1) ≤ 9 * offsetAfter m n + m.toInt * 2 ^ 16
      ∧ 9 * offsetAfter m n + m.toInt * 2 ^ 16 < 10 * (offsetAfter m (n + 1) + 1) := by
  rw [offsetAfter, Function.iterate_succ_apply']
  exact offsetUpdate_spec _ m

/-- The geometric approach to the measurement: each match loses less than 1 unit to the floor, and 9 tenths of what was lost
before remain, so less than 10 units are lost altogether. -/
theorem offsetAfter_approaches (m : BitVec 32) (n : Nat) :
    10 ^ n * offsetAfter m n ≤ m.toInt * 2 ^ 16 * (10 ^ n - 9 ^ n)
      ∧ m.toInt * 2 ^ 16 * (10 ^ n - 9 ^ n) < 10 ^ n * (offsetAfter m n + 10) := by
  induction n with
  | zero => simp [offsetAfter_zero]
  | succ n ih =>
    obtain ⟨hlo, hhi⟩ := ih
    obtain ⟨hstep, hstep'⟩ := offsetAfter_succ_spec m n
    have hpow : (0 : Int) < 10 ^ n := by positivity
    have hscaled := mul_le_mul_of_nonneg_left hstep hpow.le
    have hscaled' := mul_lt_mul_of_pos_left hstep' hpow
    rw [pow_succ (10 : Int), pow_succ (9 : Int)]
    constructor <;> linarith

/-- Outside the band of 9 units below the measurement, each match brings the offset at least 1 unit nearer to it. -/
theorem offsetAfter_in_band (m : BitVec 32) (n : Nat) :
    m.toInt * 2 ^ 16 - max 9 (m.toInt * 2 ^ 16 - n) ≤ offsetAfter m n
      ∧ offsetAfter m n ≤ m.toInt * 2 ^ 16 - min 0 (m.toInt * 2 ^ 16 + n) := by
  induction n with
  | zero => simp [offsetAfter_zero]
  | succ n ih =>
    obtain ⟨hlo, hhi⟩ := ih
    obtain ⟨hstep, hstep'⟩ := offsetAfter_succ_spec m n
    push_cast
    exact ⟨by omega, by omega⟩

/-- Settles O39: the band is reached after as many matches as the first distance has units. -/
theorem constantOffsetConverges : Obligations.ConstantOffsetConverges := by
  unfold Obligations.ConstantOffsetConverges
  refine ⟨offsetAfter_approaches, fun m => ⟨(m.toInt * 2 ^ 16).natAbs, fun n hn => ?_⟩, by decide +kernel⟩
  obtain ⟨hlo, hhi⟩ := offsetAfter_in_band m n
  change m.toInt * 2 ^ 16 - 9 ≤ offsetAfter m n ∧ offsetAfter m n ≤ m.toInt * 2 ^ 16
  exact ⟨by omega, by omega⟩

end Sys2Proof.Proofs

/-! Proofs, part 32: an accepted observation bounds the histories (O38). -/

namespace Sys2Proof.Proofs

open Sys2Proof Sys2Proof.Machine Sys2Proof.Safety

/-- At time `ts` no entry is older than the window, and there are at most 64 (44_channel_sync.md R272, R276). -/
structure WithinBounds (win : BitVec 31) (ts : BitVec 32) (h : List HistEntry) : Prop where
  age : ∀ e ∈ h, sdiff32 ts e.ts ≤ (win.toNat : Int)
  len : h.length ≤ 64

/-- Marking an entry used keeps the timestamps and their order. -/
theorem markUsed_timestamps (id : BitVec 24) (h : List HistEntry) :
    (markUsed id h).map HistEntry.ts = h.map HistEntry.ts := by
  induction h with
  | nil => rfl
  | cons e h ih => unfold markUsed; split <;> simp [ih]

section

variable {win : BitVec 31} {ts : BitVec 32} {h : List HistEntry}

theorem withinBounds_evictList (hlen : h.length ≤ 64) : WithinBounds win ts (evictList win ts h) where
  age e he := ((mem_evictList win ts h e).mp he).2
  len := (evictList_sublist win ts h).length_le.trans hlen

/-- The new entry has age 0, and room for it has been made. -/
theorem WithinBounds.enter (hb : WithinBounds win ts h) (id : BitVec 24) (used : Bool) :
    WithinBounds win ts (roomIn h ++ [{ id := id, ts := ts, used := used }]) where
  age e he := by
    obtain he | he := List.mem_append.mp he
    · exact hb.age e ((roomIn_sublist h).subset he)
    · rw [List.mem_singleton.mp he, sdiff32, BitVec.sub_self, BitVec.toInt_zero]
      exact Int.natCast_nonneg _
  len := by
    rw [List.length_append, List.length_singleton]
    exact roomIn_length_lt hb.len

theorem WithinBounds.markUsed (hb : WithinBounds win ts h) (id : BitVec 24) : WithinBounds win ts (markUsed id h) where
  age e he := by
    have hts := List.mem_map_of_mem (f := HistEntry.ts) he
    rw [markUsed_timestamps] at hts
    obtain ⟨f, hf, heq⟩ := List.mem_map.mp hts
    exact heq ▸ hb.age f hf
  len := by
    have hids := congrArg List.length (markUsed_ids id h)
    rw [List.length_map, List.length_map] at hids
    exact hids ▸ hb.len

end

section

variable {id : BitVec 24} {ts : BitVec 32} {s t : State} (hreq : resyncReq s = false) (hv : s.csu.vh.length ≤ 64)
  (ha : s.csu.ah.length ≤ 64)

include hreq hv ha

theorem VisualOutcome.withinBounds (ho : VisualOutcome id ts s t) :
    WithinBounds s.csu.histWin ts t.csu.vh ∧ WithinBounds s.csu.histWin ts t.csu.ah := by
  have hbv : WithinBounds s.csu.histWin ts (evict ts s).csu.vh := withinBounds_evictList hv
  have hba : WithinBounds s.csu.histWin ts (evict ts s).csu.ah := withinBounds_evictList ha
  obtain ⟨hroomv, hrooma⟩ := makeRoomV_histories (evict ts s)
  rw [← hrooma] at hba
  have hentered : ∀ used, WithinBounds s.csu.histWin ts
      ((makeRoomV (evict ts s)).csu.vh ++ [{ id := id, ts := ts, used := used }]) :=
    fun used => by rw [hroomv]; exact hbv.enter id used
  cases ho with
  | pending hpending => exact absurd (hreq.symm.trans hpending) (by decide)
  | duplicate => exact ⟨hbv, withinBounds_evictList ha⟩
  | matched => exact ⟨hentered true, hba.markUsed id⟩
  | lost | lone => exact ⟨hentered false, hba⟩

theorem AudioOutcome.withinBounds (ho : AudioOutcome id ts s t) :
    WithinBounds s.csu.histWin ts t.csu.vh ∧ WithinBounds s.csu.histWin ts t.csu.ah := by
  have hbv : WithinBounds s.csu.histWin ts (evict ts s).csu.vh := withinBounds_evictList hv
  have hba : WithinBounds s.csu.histWin ts (evict ts s).csu.ah := withinBounds_evictList ha
  obtain ⟨hroomv, hrooma⟩ := makeRoomA_histories (evict ts s)
  rw [← hroomv] at hbv
  have hentered : ∀ used, WithinBounds s.csu.histWin ts
      ((makeRoomA (evict ts s)).csu.ah ++ [{ id := id, ts := ts, used := used }]) :=
    fun used => by rw [hrooma]; exact hba.enter id used
  cases ho with
  | pending hpending => exact absurd (hreq.symm.trans hpending) (by decide)
  | duplicate => exact ⟨withinBounds_evictList hv, hba⟩
  | matched => exact ⟨hbv.markUsed id, hentered true⟩
  | lone => exact ⟨hbv, hentered false⟩

end

/-- Settles O38: whichever way an observation ends, save refused, both histories are within the bounds. -/
theorem observationBoundsTheHistories : Obligations.ObservationBoundsTheHistories := by
  unfold Obligations.ObservationBoundsTheHistories
  intro i id ts s t hi hreq hv ha hexec
  have hb : WithinBounds s.csu.histWin ts t.csu.vh ∧ WithinBounds s.csu.histWin ts t.csu.ah := by
    obtain rfl | rfl := hi
    · exact (execCsObserveV_outcome hexec).withinBounds hreq hv ha
    · exact (execCsObserveA_outcome hexec).withinBounds hreq hv ha
  obtain ⟨hbv, hba⟩ := hb
  exact ⟨fun e he => (List.mem_append.mp he).elim (hbv.age e) (hba.age e), hbv.len, hba.len⟩

end Sys2Proof.Proofs

/-! Proofs, part 33: the observation commands (O33, O34). -/

namespace Sys2Proof.Proofs

open Sys2Proof Sys2Proof.Machine Sys2Proof.Safety

/-! ### Each outcome is what the command answers (44_channel_sync.md R280, R281) -/

section

variable {id : BitVec 24} {ts : BitVec 32} {s t : State}

/-- The converse of `execCsObserveV_outcome`: an outcome names every check that leads to it. -/
theorem VisualOutcome.exec_eq (h : VisualOutcome id ts s t) : exec (.csObserveV id ts) s = .next t := by
  cases h with
  | pending hreq => simp only [exec, execCsObserveV, hreq, if_true]
  | duplicate hreq hdup => simp only [exec, execCsObserveV, hreq, hdup, if_true, Bool.false_eq_true, if_false]
  | matched a hreq hnew hfind =>
    rw [readyV] at hfind
    simp only [exec, execCsObserveV, hreq, hnew, hfind, Bool.false_eq_true, if_false]
    rfl
  | lost hreq hnew hfind hcount =>
    rw [readyV] at hfind hcount
    rw [tooManyMisses] at hcount
    simp only [exec, execCsObserveV, hreq, hnew, hfind, Bool.false_eq_true, if_false, if_pos hcount]
    rfl
  | lone hreq hnew hfind hcount =>
    rw [readyV] at hfind hcount
    rw [tooManyMisses] at hcount
    simp only [exec, execCsObserveV, hreq, hnew, hfind, Bool.false_eq_true, if_false, if_neg hcount]
    rfl

/-- The converse of `execCsObserveA_outcome`. -/
theorem AudioOutcome.exec_eq (h : AudioOutcome id ts s t) : exec (.csObserveA id ts) s = .next t := by
  cases h with
  | pending hreq => simp only [exec, execCsObserveA, hreq, if_true]
  | duplicate hreq hdup => simp only [exec, execCsObserveA, hreq, hdup, if_true, Bool.false_eq_true, if_false]
  | matched v hreq hnew hfind =>
    rw [readyA] at hfind
    simp only [exec, execCsObserveA, hreq, hnew, hfind, Bool.false_eq_true, if_false]
    rfl
  | lone hreq hnew hfind =>
    rw [readyA] at hfind
    simp only [exec, execCsObserveA, hreq, hnew, hfind, Bool.false_eq_true, if_false]
    rfl

end

/-! ### Room for one entry (R272, R276) -/

theorem evictList_eq_surviving (win : BitVec 31) (ts : BitVec 32) (h : List HistEntry) :
    evictList win ts h = surviving win ts h := by
  exact List.filter_congr fun e _ => decide_not.symm.trans (decide_eq_decide.mpr not_lt)

theorem evict_eq (ts : BitVec 32) (s : State) : evict ts s = { s with csu := { s.csu with
    vh := surviving s.csu.histWin ts s.csu.vh
    ah := surviving s.csu.histWin ts s.csu.ah } } := by
  rw [evict, evictList_eq_surviving, evictList_eq_surviving]

theorem isFull_iff (h : List HistEntry) : isFull h = true ↔ h.length = 64 := beq_iff_eq

theorem isFull_eq_false_iff (h : List HistEntry) : isFull h = false ↔ h.length ≠ 64 := beq_eq_false_iff_ne

theorem makeRoomV_eq (s : State) : makeRoomV s = { s with
    ctl := { s.ctl with evt := if s.csu.vh.length = 64 then s.ctl.evt ||| 0b010#3 else s.ctl.evt }
    csu := { s.csu with vh := if s.csu.vh.length = 64 then s.csu.vh.tail else s.csu.vh } } := by
  obtain ⟨hfull, h⟩ | ⟨hfull, h⟩ := makeRoomV_cases s
  · simp only [h, if_pos ((isFull_iff _).mp hfull)]
    rfl
  · simp only [h, if_neg ((isFull_eq_false_iff _).mp hfull)]

theorem makeRoomA_eq (s : State) : makeRoomA s = { s with
    ctl := { s.ctl with evt := if s.csu.ah.length = 64 then s.ctl.evt ||| 0b100#3 else s.ctl.evt }
    csu := { s.csu with ah := if s.csu.ah.length = 64 then s.csu.ah.tail else s.csu.ah } } := by
  obtain ⟨hfull, h⟩ | ⟨hfull, h⟩ := makeRoomA_cases s
  · simp only [h, if_pos ((isFull_iff _).mp hfull)]
    rfl
  · simp only [h, if_neg ((isFull_eq_false_iff _).mp hfull)]

/-- What an accepted visual observation finds: both histories evicted, and room in its own. -/
theorem readyV_eq (ts : BitVec 32) (s : State) :
    let vh := surviving s.csu.histWin ts s.csu.vh
    readyV ts s = { s with
      ctl := { s.ctl with evt := if vh.length = 64 then s.ctl.evt ||| 0b010#3 else s.ctl.evt }
      csu := { s.csu with
        vh := if vh.length = 64 then vh.tail else vh
        ah := surviving s.csu.histWin ts s.csu.ah } } := by
  rw [readyV, makeRoomV_eq, evict_eq]

/-- What an accepted audio observation finds. -/
theorem readyA_eq (ts : BitVec 32) (s : State) :
    let ah := surviving s.csu.histWin ts s.csu.ah
    readyA ts s = { s with
      ctl := { s.ctl with evt := if ah.length = 64 then s.ctl.evt ||| 0b100#3 else s.ctl.evt }
      csu := { s.csu with
        vh := surviving s.csu.histWin ts s.csu.vh
        ah := if ah.length = 64 then ah.tail else ah } } := by
  rw [readyA, makeRoomA_eq, evict_eq]

/-- The response of an accepted observation (R280): `DROPPED` where the history was full, `MATCHED` beside it. -/
theorem observeFlags_isFull (h : List HistEntry) :
    observeFlags (isFull h) false false = (if h.length = 64 then 0b100 else 0)
      ∧ observeFlags (isFull h) false true = (if h.length = 64 then 0b100 else 0) ||| 1 := by
  cases hfull : isFull h with
  | true => rw [if_pos ((isFull_iff h).mp hfull)]; decide
  | false => rw [if_neg ((isFull_eq_false_iff h).mp hfull)]; decide

/-! ### Duplicates and candidates (R274, R275) -/

theorem isCandidate_iff (id : BitVec 24) (e : HistEntry) : isCandidate id e = true ↔ e.id = id ∧ e.used = false := by
  simp [isCandidate]

theorem hasId_eq_true_iff (id : BitVec 24) (h : List HistEntry) : hasId id h = true ↔ ∃ e ∈ h, e.id = id := by
  simp [hasId]

theorem hasId_eq_false_iff (id : BitVec 24) (h : List HistEntry) : hasId id h = false ↔ ∀ e ∈ h, e.id ≠ id := by
  simp [hasId]

section

variable {id : BitVec 24} {h : List HistEntry}

theorem find?_isCandidate_eq_none (hall : ∀ e ∈ h, e.id = id → e.used = true) : h.find? (isCandidate id) = none := by
  refine List.find?_eq_none.mpr fun e he hcand => ?_
  obtain ⟨hid, hunused⟩ := (isCandidate_iff id e).mp hcand
  exact absurd ((hall e he hid).symm.trans hunused) (by decide)

variable {a : HistEntry} (hnd : (h.map HistEntry.id).Nodup) (ha : a ∈ h) (hcand : isCandidate id a = true)

include hnd ha hcand

/-- No id stands twice in a history, so a candidate in it is the only one. -/
theorem eq_of_isCandidate {e : HistEntry} (he : e ∈ h) (hcand' : isCandidate id e = true) : e = a :=
  List.inj_on_of_nodup_map hnd he ha
    (((isCandidate_iff id e).mp hcand').1.trans ((isCandidate_iff id a).mp hcand).1.symm)

theorem find?_isCandidate_of_mem : h.find? (isCandidate id) = some a := by
  obtain ⟨e, hfind⟩ := Option.isSome_iff_exists.mp (List.find?_isSome.mpr ⟨a, ha, hcand⟩)
  rw [hfind, eq_of_isCandidate hnd ha hcand (List.mem_of_find?_eq_some hfind) (List.find?_some hfind)]

/-- Marking the first candidate marks the only one. -/
theorem markUsed_eq_map : markUsed id h = h.map fun e => if e = a then { e with used := true } else e := by
  induction h with
  | nil => rfl
  | cons e h ih =>
    obtain ⟨hfresh, hnd'⟩ := List.nodup_cons.mp hnd
    rw [markUsed, List.map_cons]
    by_cases hea : e = a
    · subst hea
      have hrest : ∀ f ∈ h, (if f = e then { f with used := true } else f) = f := fun f hf =>
        if_neg (by rintro rfl; exact hfresh (List.mem_map_of_mem hf))
      rw [if_pos hcand, if_pos rfl, List.map_congr_left hrest, List.map_id']
    · have hnot : ¬ isCandidate id e = true := fun hcand' =>
        hea (eq_of_isCandidate hnd ha hcand List.mem_cons_self hcand')
      rw [if_neg hnot, if_neg hea, ih hnd' ((List.mem_cons.mp ha).resolve_left (Ne.symm hea))]

end

theorem wrap_sdiff32 (x y : BitVec 32) : wrap 32 (sdiff32 x y) = x - y := BitVec.ofInt_toInt

theorem bumpNoMatch_toNat (n : BitVec 8) : (bumpNoMatch n).toNat = min 255 (n.toNat + 1) := by
  rw [bumpNoMatch, BitVec.toNat_ofNat]
  omega

theorem bumpNoMatch_setWidth (n : BitVec 8) : (bumpNoMatch n).setWidth 32 = BitVec.ofNat 32 (min 255 (n.toNat + 1)) := by
  rw [← BitVec.ofNat_toNat, bumpNoMatch_toNat]

theorem surviving_ids_nodup {h : List HistEntry} (hnd : (h.map HistEntry.id).Nodup) (win : BitVec 31) (ts : BitVec 32) :
    ((surviving win ts h).map HistEntry.id).Nodup :=
  hnd.sublist (List.filter_sublist.map _)

/-! ### The commands -/

/-- Settles O33: the checks of the rule pick the outcome, and `readyV_eq` gives the state it enters the entry in. -/
theorem visualObservationFollowsItsRule : Obligations.VisualObservationFollowsItsRule := by
  unfold Obligations.VisualObservationFollowsItsRule
  intro id ts s hnd vh ah kept evt drop n
  have hready : readyV ts s = { s with
    ctl := { s.ctl with evt := evt }, csu := { s.csu with vh := kept, ah := ah } } := readyV_eq ts s
  have hevict : evict ts s = { s with csu := { s.csu with vh := vh, ah := ah } } := evict_eq ts s
  have hvh : (evict ts s).csu.vh = vh := by rw [hevict]
  have hah : (readyV ts s).csu.ah = ah := by rw [hready]
  obtain ⟨hflags, hflags'⟩ := observeFlags_isFull vh
  refine ⟨hasWord_of_encode rfl, fun hreq => (VisualOutcome.pending hreq).exec_eq, fun hreq hdup => ?_,
    fun hreq hnew => ?_⟩
  · rw [← hasId_eq_true_iff, ← hvh] at hdup
    rw [(VisualOutcome.duplicate hreq hdup).exec_eq, hevict]
    rfl
  · rw [← hasId_eq_false_iff, ← hvh] at hnew
    refine ⟨fun a ha hid hunused => ?_, fun hall => ?_⟩
    · have hcand := (isCandidate_iff id a).mpr ⟨hid, hunused⟩
      have hnd' : (ah.map HistEntry.id).Nodup := surviving_ids_nodup hnd _ _
      have hfind := find?_isCandidate_of_mem hnd' ha hcand
      rw [← hah] at hfind
      rw [(VisualOutcome.matched a hreq hnew hfind).exec_eq, hvh, hflags', estimate, wrap_sdiff32, enterMatchedV,
        hready, markUsed_eq_map hnd' ha hcand]
      rfl
    · have hfind := find?_isCandidate_eq_none hall
      rw [← hah] at hfind
      have hcount : tooManyMisses (readyV ts s) ↔ s.csu.resyncN ≠ 0 ∧ s.csu.resyncN.toNat ≤ n := by
        rw [tooManyMisses, bumpNoMatch_toNat, hready]
      refine ⟨fun hon hle => ?_, fun hor => ?_⟩
      · rw [(VisualOutcome.lost hreq hnew hfind (hcount.mpr ⟨hon, hle⟩)).exec_eq, hvh, hflags,
          bumpNoMatch_setWidth, enterLoneV, hready]
        rfl
      · have hfew : ¬ tooManyMisses (readyV ts s) := fun hmany => by
          obtain ⟨hon, hle⟩ := hcount.mp hmany
          exact hor.elim hon (not_lt.mpr hle)
        rw [(VisualOutcome.lone hreq hnew hfind hfew).exec_eq, hvh, hflags, enterLoneV, hready]
        rfl

/-- Settles O34: as for the visual channel, with the measurement and its time base taken from the visual entry. -/
theorem audioObservationFollowsItsRule : Obligations.AudioObservationFollowsItsRule := by
  unfold Obligations.AudioObservationFollowsItsRule
  intro id ts s hnd vh ah kept evt drop
  have hready : readyA ts s = { s with
    ctl := { s.ctl with evt := evt }, csu := { s.csu with vh := vh, ah := kept } } := readyA_eq ts s
  have hevict : evict ts s = { s with csu := { s.csu with vh := vh, ah := ah } } := evict_eq ts s
  have hah : (evict ts s).csu.ah = ah := by rw [hevict]
  have hvh : (readyA ts s).csu.vh = vh := by rw [hready]
  obtain ⟨hflags, hflags'⟩ := observeFlags_isFull ah
  refine ⟨hasWord_of_encode rfl, fun hreq => (AudioOutcome.pending hreq).exec_eq, fun hreq hdup => ?_,
    fun hreq hnew => ?_⟩
  · rw [← hasId_eq_true_iff, ← hah] at hdup
    rw [(AudioOutcome.duplicate hreq hdup).exec_eq, hevict]
    rfl
  · rw [← hasId_eq_false_iff, ← hah] at hnew
    refine ⟨fun v hv hid hunused => ?_, fun hall => ?_⟩
    · have hcand := (isCandidate_iff id v).mpr ⟨hid, hunused⟩
      have hnd' : (vh.map HistEntry.id).Nodup := surviving_ids_nodup hnd _ _
      have hfind := find?_isCandidate_of_mem hnd' hv hcand
      rw [← hvh] at hfind
      rw [(AudioOutcome.matched v hreq hnew hfind).exec_eq, hah, hflags', estimate, wrap_sdiff32, enterMatchedA,
        hready, markUsed_eq_map hnd' hv hcand]
      rfl
    · have hfind := find?_isCandidate_eq_none hall
      rw [← hvh] at hfind
      rw [(AudioOutcome.lone hreq hnew hfind).exec_eq, hah, hflags, enterLoneA, hready]
      rfl

end Sys2Proof.Proofs

/-! Proofs, part 34: the commands that read the estimate and the histories (O35, O36). -/

namespace Sys2Proof.Proofs

open Sys2Proof Sys2Proof.Machine Sys2Proof.Safety

/-! ### `CS_DRIFT` and `CS_ALIGN` (44_channel_sync.md R282, R283) -/

/-- Every selector names a part of the estimate: the rate and the offset in short, the offset's low part, the whole rate, the
offset's high part. -/
theorem exec_csDrift (s : State) :
    exec (.csDrift 0) s = .next (settled 0x00 (wrap 24 (fdiv s.csu.rate.toInt (2 ^ 8)))
        (wrap 32 (fdiv s.csu.offset.toInt (2 ^ 16))) s)
      ∧ exec (.csDrift 1) s = .next (settled 0x00 0 (s.csu.offset.extractLsb' 0 32) s)
      ∧ exec (.csDrift 2) s = .next (settled 0x00 0 s.csu.rate s)
      ∧ exec (.csDrift 3) s = .next (settled 0x00 0 ((s.csu.offset.extractLsb' 32 16).setWidth 32) s) :=
  ⟨rfl, rfl, rfl, rfl⟩

theorem offsetLo_eq_ofNat (v : BitVec 48) : v.extractLsb' 0 32 = BitVec.ofNat 32 (v.toNat % 2 ^ 32) := by
  rw [← offsetLo_toNat, BitVec.ofNat_toNat, BitVec.setWidth_eq]

theorem offsetHi_eq_ofNat (v : BitVec 48) :
    (v.extractLsb' 32 16).setWidth 32 = BitVec.ofNat 32 (v.toNat / 2 ^ 32) := by
  rw [← offsetHi_toNat, BitVec.ofNat_toNat]

/-- Settles O35: the parts of the offset as quotient and remainder; the extrapolation is the model's `offsetAt`. -/
theorem driftAndAlignReadTheEstimate : Obligations.DriftAndAlignReadTheEstimate := by
  unfold Obligations.DriftAndAlignReadTheEstimate
  refine ⟨fun sel s => ?_, fun ts s => ⟨hasWord_of_encode rfl, rfl⟩⟩
  obtain ⟨hshort, hlo, hrate, hhi⟩ := exec_csDrift s
  rw [offsetLo_eq_ofNat] at hlo
  rw [offsetHi_eq_ofNat] at hhi
  refine ⟨hasWord_of_encode rfl, ?_, ?_, ?_, ?_⟩
  all_goals rintro rfl
  exacts [hshort, hlo, hrate, hhi]

/-! ### `CS_HIST_RD` (R285) -/

theorem csHistRd_operand (ch sel : BitVec 1) (idx : BitVec 8) :
    (0#8 ++ idx ++ 0#6 ++ sel ++ ch : BitVec 24) = BitVec.ofNat 24 (ch.toNat + 2 * sel.toNat + 256 * idx.toNat) := by
  refine BitVec.eq_of_toNat_eq ?_
  simp only [toNat_append_eq, BitVec.toNat_ofNat]
  omega

section

variable {ch : BitVec 1} {idx : BitVec 8} {s : State} {h : List HistEntry}
  (hh : (if ch = 0 then s.csu.vh else s.csu.ah) = h)

include hh

theorem exec_csHistRd_of_le (sel : BitVec 1) (hle : h.length ≤ idx.toNat) :
    exec (.csHistRd ch sel idx) s = .next (settled 0x11 0 0 s) := by
  simp only [exec, execCsHistRd, hh, List.getElem?_eq_none hle]
  rfl

theorem exec_csHistRd_of_getElem? (sel : BitVec 1) {e : HistEntry} (he : h[idx.toNat]? = some e) :
    exec (.csHistRd ch sel idx) s
      = .next (settled 0x00 e.id (if sel = 0 then e.ts else (BitVec.ofBool e.used).setWidth 32) s) := by
  simp only [exec, execCsHistRd, hh, he]
  rfl

end

theorem usedBit_eq_ofNat : ∀ used : Bool, (BitVec.ofBool used).setWidth 32 = BitVec.ofNat 32 used.toNat := by decide

/-- Settles O36. -/
theorem historyReadGivesTheEntry : Obligations.HistoryReadGivesTheEntry := by
  unfold Obligations.HistoryReadGivesTheEntry
  intro ch sel idx s h
  refine ⟨hasWord_of_encode (congrArg (commandWord 0x45 · 0) (csHistRd_operand ch sel idx)), exec_csHistRd_of_le rfl sel,
    fun e he => ?_⟩
  have hexec := exec_csHistRd_of_getElem? rfl sel he
  constructor
  · rintro rfl
    exact hexec
  · rintro rfl
    rw [← usedBit_eq_ofNat]
    exact hexec

end Sys2Proof.Proofs

/-! Proofs, part 35: a step of the block, whatever is presented, and the interrupt line (O9, O15). -/

namespace Sys2Proof.Proofs

open Sys2Proof Sys2Proof.Machine Sys2Proof.Safety

/-! ### Every step answers (93_implementation_defined.md U3) -/

section

variable {rest : List HostInput} {s : State}

theorem step_of_idle (hin : s.inputs = []) : step s = .next s := by
  simp only [step, fetch_nil s hin]

theorem step_of_hardReset (hin : s.inputs = .hardReset :: rest) :
    step s = .next (hardReset { s with inputs := rest }) := by
  simp only [step, fetch_cons _ _ s hin]

theorem step_command_total {w : Word64} (hin : s.inputs = .command w :: rest) : ∃ t, step s = .next t := by
  cases hd : decode w with
  | ok i =>
    rw [step_of_decode_ok hin hd]
    exact exec_total i _
  | error e => exact ⟨_, step_of_decode_error hin hd⟩

end

/-- Settles O9: a waiting block, a reset pulse and a command word each have their step. -/
theorem stepAlwaysAnswersNext : Obligations.StepAlwaysAnswersNext := by
  unfold Obligations.StepAlwaysAnswersNext
  intro s
  match hin : s.inputs with
  | [] => exact ⟨_, step_of_idle hin⟩
  | .hardReset :: _ => exact ⟨_, step_of_hardReset hin⟩
  | .command _ :: _ => exact step_command_total hin

/-! ### The interrupt line (60_exceptions.md R320) -/

theorem ne_zero_iff_getLsbD {n : Nat} (x : BitVec n) : x ≠ 0 ↔ ∃ i < n, x.getLsbD i = true := by
  rw [ne_eq, BitVec.eq_of_getLsbD_eq_iff]
  simp

theorem irq_iff (s : State) : irq s = true ↔ s.ctl.evt &&& s.ctl.evtEn ≠ 0 := decide_eq_true_iff

/-- Settles O15: the line is high when `EVT` and `EVT_EN` have a common bit, read off the bits of their conjunction. -/
theorem interruptLineIsAnEnabledEvent : Obligations.InterruptLineIsAnEnabledEvent := by
  unfold Obligations.InterruptLineIsAnEnabledEvent
  intro s
  rw [irq_iff, ne_zero_iff_getLsbD]
  simp only [BitVec.getLsbD_and, Bool.and_eq_true]

end Sys2Proof.Proofs

/-! Proofs, part 36: what a command of one unit leaves alone and depends on (O13), and the idle and the reset step (O7). -/

namespace Sys2Proof.Proofs

open Sys2Proof Sys2Proof.Machine Sys2Proof.Safety

/-! ### What a command of one unit leaves alone -/

theorem Ends.evtEn {s t : State} (h : Ends s t) : t.ctl.evtEn = s.ctl.evtEn := by obtain ⟨st, ra, rb, rfl⟩ := h; rfl

@[simp] theorem makeRoomV_evtEn (s : State) : (makeRoomV s).ctl.evtEn = s.ctl.evtEn := by
  obtain ⟨_, h⟩ | ⟨_, h⟩ := makeRoomV_cases s <;> simp [h]

@[simp] theorem makeRoomA_evtEn (s : State) : (makeRoomA s).ctl.evtEn = s.ctl.evtEn := by
  obtain ⟨_, h⟩ | ⟨_, h⟩ := makeRoomA_cases s <;> simp [h]

theorem VisualOutcome.evtEn {id : BitVec 24} {ts : BitVec 32} {s t : State} (h : VisualOutcome id ts s t) :
    t.ctl.evtEn = s.ctl.evtEn := by
  have hready : (readyV ts s).ctl.evtEn = s.ctl.evtEn := makeRoomV_evtEn (evict ts s)
  cases h with
  | pending => rfl
  | duplicate => rfl
  | matched => exact hready
  | lost => exact hready
  | lone => exact hready

theorem AudioOutcome.evtEn {id : BitVec 24} {ts : BitVec 32} {s t : State} (h : AudioOutcome id ts s t) :
    t.ctl.evtEn = s.ctl.evtEn := by
  have hready : (readyA ts s).ctl.evtEn = s.ctl.evtEn := makeRoomA_evtEn (evict ts s)
  cases h with
  | pending => rfl
  | duplicate => rfl
  | matched => exact hready
  | lone => exact hready

theorem CsuOutcome.evtEn {i : Instr} {s t : State} (h : CsuOutcome s i t) : t.ctl.evtEn = s.ctl.evtEn := by
  cases h with
  | read _ _ _ ht => exact ht.evtEn
  | resynced _ ht => exact ht.evtEn
  | visual _ _ _ ht => exact ht.evtEn
  | audio _ _ _ ht => exact ht.evtEn

/-- Only a control command writes `EVT_EN` (10_state.md R27, 70_reset_and_hazards.md R361). -/
theorem exec_evtEn {i : Instr} {s t : State} (hu : unitOf i ≠ .ctl) (h : exec i s = .next t) :
    t.ctl.evtEn = s.ctl.evtEn := by
  cases hi : unitOf i with
  | ctl => exact absurd hi hu
  | rsu => obtain ⟨r, _, he⟩ := exec_rsu_cases hi h; exact he.evtEn
  | fmu => obtain ⟨f, _, he⟩ := exec_fmu_cases hi h; exact he.evtEn
  | apc => obtain ⟨a, _, he⟩ := exec_apc_cases hi h; exact he.evtEn
  | csu => exact (exec_csu_cases hi h).evtEn

/-- The units a command does not belong to stay as they are (70_reset_and_hazards.md R361). -/
theorem exec_other_units {i : Instr} {s t : State} (hu : unitOf i ≠ .ctl) (h : exec i s = .next t) :
    (unitOf i ≠ .rsu → t.rsu = s.rsu) ∧ (unitOf i ≠ .fmu → t.fmu = s.fmu)
      ∧ (unitOf i ≠ .apc → t.apc = s.apc) ∧ (unitOf i ≠ .csu → t.csu = s.csu) := by
  cases hi : unitOf i with
  | ctl => exact absurd hi hu
  | rsu =>
    obtain ⟨r, _, he⟩ := exec_rsu_cases hi h
    exact ⟨(absurd rfl ·), fun _ => he.fmu, fun _ => he.apc, fun _ => he.csu⟩
  | fmu =>
    obtain ⟨f, _, he⟩ := exec_fmu_cases hi h
    exact ⟨fun _ => he.rsu, (absurd rfl ·), fun _ => he.apc, fun _ => he.csu⟩
  | apc =>
    obtain ⟨a, _, he⟩ := exec_apc_cases hi h
    exact ⟨fun _ => he.rsu, fun _ => he.fmu, (absurd rfl ·), fun _ => he.csu⟩
  | csu =>
    obtain ⟨hrsu, hfmu, hapc⟩ := (exec_csu_cases hi h).units
    exact ⟨fun _ => hrsu, fun _ => hfmu, fun _ => hapc, (absurd rfl ·)⟩

/-! ### What a command of one unit depends on

A command is run a second time from a state in which everything outside its unit, the control state and the model's counter is at
its reset value. It does the same there; so two states that agree on those parts give it the same result. -/

/-- The state with control, counter and unit `u` of `s`, and all else as after reset. -/
def isolate (u : BlockUnit) (s : State) : State :=
  { State.reset with
    ctl := s.ctl
    rsu := if u = .rsu then s.rsu else .reset
    fmu := if u = .fmu then s.fmu else .reset
    apc := if u = .apc then s.apc else .reset
    csu := if u = .csu then s.csu else .reset
    draws := s.draws }

/-- The isolated state with the response word of `s` on the response port. -/
def isolateAnswered (u : BlockUnit) (s : State) : State := { isolate u s with rsp := s.rsp }

/-- The unit `u` is the same in both states; the control state is not looked at. -/
def sameUnit (u : BlockUnit) (s s' : State) : Prop :=
  match u with
  | .ctl => True
  | .rsu => s'.rsu = s.rsu
  | .fmu => s'.fmu = s.fmu
  | .apc => s'.apc = s.apc
  | .csu => s'.csu = s.csu

theorem isolate_congr {u : BlockUnit} {s s' : State} (hctl : s'.ctl = s.ctl) (hdraws : s'.draws = s.draws)
    (hunit : sameUnit u s s') : isolate u s' = isolate u s := by
  cases u <;> simp_all [isolate, sameUnit]

/-- What two equal isolated results share. -/
theorem shared_of_isolateAnswered_eq {u : BlockUnit} {t t' : State} (h : isolateAnswered u t' = isolateAnswered u t) :
    t'.rsp = t.rsp ∧ t'.ctl = t.ctl ∧ sameUnit u t t' := by
  refine ⟨(congrArg State.rsp h :), (congrArg State.ctl h :), ?_⟩
  cases u with
  | ctl => trivial
  | rsu => exact (congrArg State.rsu h :)
  | fmu => exact (congrArg State.fmu h :)
  | apc => exact (congrArg State.apc h :)
  | csu => exact (congrArg State.csu h :)

section
variable {s t : State}

/-! Reed-Solomon unit -/

theorem parityOf_isolate (s : State) (k : BitVec 8) : parityOf (isolate .rsu s) k = parityOf s k := rfl

theorem cwSymbols_isolate (s : State) (n : Nat) : cwSymbols (isolate .rsu s) n = cwSymbols s n := rfl

theorem eraMarks_isolate (s : State) (n : Nat) : eraMarks (isolate .rsu s) n = eraMarks s n := rfl

theorem exec_rsu_isolate {i : Instr} (hu : unitOf i = .rsu) (h : exec i s = .next t) :
    exec i (isolate .rsu s) = .next (isolateAnswered .rsu t) := by
  cases i <;> cases hu <;> cases h
  case cwClr => rfl
  case rsDec =>
    simp only [exec, execRsDec, parityOf_isolate, cwSymbols_isolate, eraMarks_isolate, apply_ite (isolateAnswered .rsu)]
    cases decodeBlock _ _ _ <;> rfl
  case cwPush | cwRd | rsEnc | ilvSplit | ilvMerge =>
    simp only [exec, execCwPush, execCwRd, execRsEnc, execIlvSplit, execIlvMerge, apply_ite (isolateAnswered .rsu)]
    rfl

/-! Frame marker unit -/

theorem stageFinder_isolate (g : Geom) (s : State) :
    stageFinder g (isolate .fmu s) = isolateAnswered .fmu (stageFinder g s) := by
  simp only [stageFinder, stageHeader, stageChecksum, stagePayload, apply_ite (isolateAnswered .fmu)]
  rfl

theorem exec_fmu_isolate {i : Instr} (hu : unitOf i = .fmu) (h : exec i s = .next t) :
    exec i (isolate .fmu s) = .next (isolateAnswered .fmu t) := by
  cases i <;> cases hu <;> cases h
  case frParse =>
    simp only [exec, execFrParse, stageFinder_isolate, apply_ite (isolateAnswered .fmu)]
    rfl
  case gridWr | gridRd | tmplWr | tmplRd | fbWr | fbRd | frDetect | frFormat =>
    simp only [exec, execGridWr, execGridRd, execTmplWr, execTmplRd, execFbWr, execFbRd, execFrDetect, execFrFormat,
      apply_ite (isolateAnswered .fmu)]
    rfl

/-! Audio preamble correlator -/

theorem exec_apc_isolate {i : Instr} (hu : unitOf i = .apc) (h : exec i s = .next t) :
    exec i (isolate .apc s) = .next (isolateAnswered .apc t) := by
  cases i <;> cases hu <;> cases h
  case abWr | abRd | ptWr | ptRd | auCorr =>
    simp only [exec, execAbWr, execAbRd, execPtWr, execPtRd, execAuCorr, apply_ite (isolateAnswered .apc)]
    rfl

/-! Channel synchroniser -/

theorem isolate_csu (s : State) : (isolate .csu s).csu = s.csu := rfl

theorem evict_isolate (ts : BitVec 32) (s : State) : evict ts (isolate .csu s) = isolate .csu (evict ts s) := rfl

theorem makeRoomV_isolate (s : State) : makeRoomV (isolate .csu s) = isolate .csu (makeRoomV s) := by
  simp only [makeRoomV, apply_ite (isolate .csu)]
  rfl

theorem makeRoomA_isolate (s : State) : makeRoomA (isolate .csu s) = isolate .csu (makeRoomA s) := by
  simp only [makeRoomA, apply_ite (isolate .csu)]
  rfl

theorem execCsObserveV_isolate {id : BitVec 24} {ts : BitVec 32} (h : execCsObserveV id ts s = .next t) :
    execCsObserveV id ts (isolate .csu s) = .next (isolateAnswered .csu t) := by
  cases h
  simp only [execCsObserveV, evict_isolate, makeRoomV_isolate, isolate_csu, apply_ite (isolateAnswered .csu)]
  cases (makeRoomV (evict ts s)).csu.ah.find? (isCandidate id) with
  | some a => rfl
  | none => simp only [apply_ite (isolateAnswered .csu)]; rfl

theorem execCsObserveA_isolate {id : BitVec 24} {ts : BitVec 32} (h : execCsObserveA id ts s = .next t) :
    execCsObserveA id ts (isolate .csu s) = .next (isolateAnswered .csu t) := by
  cases h
  simp only [execCsObserveA, evict_isolate, makeRoomA_isolate, isolate_csu, apply_ite (isolateAnswered .csu)]
  cases (makeRoomA (evict ts s)).csu.vh.find? (isCandidate id) <;> rfl

theorem execCsDrift_isolate {sel : BitVec 2} (h : execCsDrift sel s = .next t) :
    execCsDrift sel (isolate .csu s) = .next (isolateAnswered .csu t) := by
  cases h
  simp only [execCsDrift]
  split <;> rfl

theorem execCsHistRd_isolate {ch sel : BitVec 1} {idx : BitVec 8} (h : execCsHistRd ch sel idx s = .next t) :
    execCsHistRd ch sel idx (isolate .csu s) = .next (isolateAnswered .csu t) := by
  cases h
  simp only [execCsHistRd, isolate_csu]
  cases (if ch = 0 then s.csu.vh else s.csu.ah)[idx.toNat]? <;> rfl

theorem exec_csu_isolate {i : Instr} (hu : unitOf i = .csu) (h : exec i s = .next t) :
    exec i (isolate .csu s) = .next (isolateAnswered .csu t) := by
  cases i <;> cases hu
  case csObserveV => exact execCsObserveV_isolate h
  case csObserveA => exact execCsObserveA_isolate h
  case csDrift => exact execCsDrift_isolate h
  case csAlign | csResync => cases h; rfl
  case csHistRd => exact execCsHistRd_isolate h

/-- A command of a unit does the same where nothing but its unit, the control state and the counter is left
(70_reset_and_hazards.md R361). -/
theorem exec_isolate {i : Instr} (hu : unitOf i ≠ .ctl) (h : exec i s = .next t) :
    exec i (isolate (unitOf i) s) = .next (isolateAnswered (unitOf i) t) := by
  cases hi : unitOf i with
  | ctl => exact absurd hi hu
  | rsu => exact exec_rsu_isolate hi h
  | fmu => exact exec_fmu_isolate hi h
  | apc => exact exec_apc_isolate hi h
  | csu => exact exec_csu_isolate hi h

/-- From two states that agree on control, counter and its own unit, a command of the unit gives one result: both runs have the
same isolated run (70_reset_and_hazards.md R361). -/
theorem exec_depends_on_own_unit {i : Instr} {s' t' : State} (hu : unitOf i ≠ .ctl) (h : exec i s = .next t)
    (h' : exec i s' = .next t') (hctl : s'.ctl = s.ctl) (hdraws : s'.draws = s.draws) (hunit : sameUnit (unitOf i) s s') :
    t'.rsp = t.rsp ∧ t'.ctl = t.ctl ∧ sameUnit (unitOf i) t t' := by
  have hrun := exec_isolate hu h
  have hrun' := exec_isolate hu h'
  rw [isolate_congr hctl hdraws hunit, hrun, Host.Outcome.next.injEq] at hrun'
  exact shared_of_isolateAnswered_eq hrun'.symm

end

/-- Settles O13: the frame by what each unit's commands do, the independence by running the command in the isolated state. -/
theorem unitsShareOnlyControl : Obligations.UnitsShareOnlyControl := by
  unfold Obligations.UnitsShareOnlyControl
  intro i s t hu h
  obtain ⟨hrsu, hfmu, hapc, hcsu⟩ := exec_other_units hu h
  refine ⟨exec_evtEn hu h, hrsu, hfmu, hapc, hcsu, fun s' t' h' hctl hdraws => ?_⟩
  have hshared := exec_depends_on_own_unit hu h h' hctl hdraws
  refine ⟨fun hi => ?_, fun hi => ?_, fun hi => ?_, fun hi => ?_⟩
  all_goals rw [hi] at hshared; exact hshared

/-! ### The steps that run no command -/

/-- Settles O7: an idle step keeps the state, and a reset pulse is taken and `hardReset` follows. -/
theorem idleAndResetPulseSteps : Obligations.IdleAndResetPulseSteps := by
  unfold Obligations.IdleAndResetPulseSteps
  exact fun s => ⟨step_of_idle, fun rest => step_of_hardReset⟩

end Sys2Proof.Proofs
